-- ==== Sys2Proof/Word.lean ====
section
/-! DEFINITION. The word types of CPFSM, the command-protocol state machine of the RM690B0 driver (spec/00_scope.md
R12): unsigned values of stated width. Counts, lengths and framebuffer offsets are exact naturals (R12, D24) and
have no type here. -/

namespace Sys2Proof

/-- A u8: a framebuffer byte, a payload byte, a command byte, an opcode (R12, R100). -/
abbrev Byte := BitVec 8

/-- A u16: a window coordinate, a panel dimension (R8, R110). -/
abbrev Half := BitVec 16

/-- A u32: the request header, an operand latch, a result value (R35, R38, R39). -/
abbrev Word := BitVec 32

/-- The 24-bit controller address of a transaction (R70, R100). -/
abbrev Addr := BitVec 24

/-- A byte sequence, first in time and lowest in offset first (R13). -/
abbrev Bytes := List Byte

end Sys2Proof
end

