-- ==== Sys2Proof/Config.lean ====
section
/-! DEFINITION. The configuration CFG (spec/00_scope.md R7 to R11, spec/10_state.md R41), the value types the
collaborators and the host exchange with the block (R39, R40, R140, R160), and the OPEN values of the spec as
constants without a body, so that no proof can lean on what they are. -/

namespace Sys2Proof

/-- The four colour modes, in the order of their codes (R10, R126). -/
inductive ColorMode where
  | rgb565
  | rgb888
  | rgb666
  | gray8
deriving DecidableEq, Repr, Inhabited

/-- Bytes per pixel of a colour mode (R10). -/
def ColorMode.bpp : ColorMode → Nat
  | .rgb565 => 2
  | .rgb888 => 3
  | .rgb666 => 3
  | .gray8 => 1

/-- The extent of `TErr`: which naturals beside 0 name an error value of the Transport. OPEN (R8, D9), so the type may
have one value, any finite number of them, or countably many (DESIGN CHOICE, notes/assumptions 6). -/
opaque Config.isTErr : Nat → Bool

/-- `TErr`, an OPEN type parameter (R8, D9): the error values of the Transport. All that is known of it is that it has
a value and that its values can be compared and named. -/
structure TErr where
  code : Nat := 0
  named : code = 0 ∨ Config.isTErr code = true := by exact .inl rfl
deriving DecidableEq, Repr, Inhabited

/-- The extent of `RErr`: which naturals beside 0 name an error value of the reset line. OPEN (R8, D9), so the type may
have one value, any finite number of them, or countably many (DESIGN CHOICE, notes/assumptions 6). -/
opaque Config.isRErr : Nat → Bool

/-- `RErr`, an OPEN type parameter (R8, D9): the error values of the reset line. All that is known of it is that it has
a value and that its values can be compared and named. -/
structure RErr where
  code : Nat := 0
  named : code = 0 ∨ Config.isRErr code = true := by exact .inl rfl
deriving DecidableEq, Repr, Inhabited

/-- The response of a collaborator to one external action: `Ok` or `Err(e)` (R140, R160, R167). -/
inductive Resp (ε : Type) where
  | ok
  | err (e : ε)
deriving DecidableEq, Repr, Inhabited

/-- The outcome kinds of a request: OK and the three error kinds (R40). -/
inductive Status where
  | ok
  | interfaceError
  | resetError
  | invalidConfiguration
deriving DecidableEq, Repr, Inhabited

/-- `RES.ERR`: the collaborator's error value that the outcome carries, or none (R39). -/
inductive ErrVal where
  | none
  | transport (e : TErr)
  | resetLine (e : RErr)
deriving DecidableEq, Repr, Inhabited

/-- The result register `RES` (R39). -/
structure Res where
  status : Status
  err : ErrVal
  v0 : Word
  v1 : Word
deriving DecidableEq, Repr, Inhabited

/-- The five 32-bit words of a host request: the header `REQ_H` and the operand words `A` to `D` (R120). -/
structure Req where
  h : Word
  a : Word
  b : Word
  c : Word
  d : Word
deriving DecidableEq, Repr, Inhabited

/-- Every parameter of R8 that is plain data, in the spec's order. The two pixel encoders, which are functions, and
the draw of the framebuffer's first contents are constants of their own below. -/
structure Cfg where
  /-- `W`, the panel's width in pixels. -/
  w : Half
  /-- `H`, the panel's height in pixels. -/
  h : Half
  /-- `MODE`, the configured colour mode. -/
  mode : ColorMode
  /-- `MAX_CHUNK`, the most payload bytes of one pixel transaction. -/
  maxChunk : Nat
  /-- `MAX_COL_INDEX`, the greatest column a partial flush may name (R268). -/
  maxColIndex : Half
  ctrlOpcode : Byte
  pixelOpcode : Byte
  cmdRamwr : Byte
  cmdRamwrc : Byte
  cmdCaset : Byte
  cmdRaset : Byte
  cmdSlpout : Byte
  cmdSlpin : Byte
  cmdDispon : Byte
  cmdDispoff : Byte
  cmdColmod : Byte
  cmdTeoff : Byte
  cmdMadctl : Byte
  cmdBright : Byte
  brightMax : Byte
  /-- `PIXFMT` at each of the four colour modes. -/
  pixfmt565 : Byte
  pixfmt888 : Byte
  pixfmt666 : Byte
  pixfmtGray : Byte
  /-- `MFR_INIT`, the manufacturer's entries (command byte, data) in their order. -/
  mfrInit : List (Byte × Bytes)
  tRstLow : Nat
  tRstHigh : Nat
  tInitSlpout : Nat
  tInitDispon : Nat
  tOpSlpin : Nat
  tOpSlpout : Nat
  tOpDispon : Nat
  tOpDispoff : Nat
  tOpMadctl : Nat
  tOpBright : Nat
  /-- `FB_MAX`, the bytes of storage the platform can give the framebuffer. -/
  fbMax : Nat
deriving DecidableEq, Repr, Inhabited

/-- `PIXFMT(m)` (R8, R111). -/
def Cfg.pixfmt (c : Cfg) : ColorMode → Byte
  | .rgb565 => c.pixfmt565
  | .rgb888 => c.pixfmt888
  | .rgb666 => c.pixfmt666
  | .gray8 => c.pixfmtGray

/-- `FBLEN(m) = W * H * bpp(m)`, exact over the naturals (R11). -/
def Cfg.fblenOf (c : Cfg) (m : ColorMode) : Nat := c.w.toNat * c.h.toNat * m.bpp

/-- The framebuffer's length `FBLEN(MODE)` (R11). -/
def Cfg.fblen (c : Cfg) : Nat := c.fblenOf c.mode

/-- The well-formedness check of a configuration (R9). -/
def Cfg.wf (c : Cfg) : Bool :=
  decide (1 ≤ c.w.toNat) && decide (1 ≤ c.h.toNat) && decide (1 ≤ c.maxChunk) &&
    decide (c.fblen ≤ c.fbMax) && decide (1 ≤ c.tInitSlpout) && decide (1 ≤ c.tInitDispon)

/-- A configuration that only shows that one passes the check of R9: one pixel, and every other value zero or least.
Nothing in the model takes a value from it. -/
def Cfg.smallest : Cfg :=
  { (default : Cfg) with w := 1, h := 1, maxChunk := 1, fbMax := 3, tInitSlpout := 1, tInitDispon := 1 }

/-- A configuration a block can be instantiated with: one that passes the check of R9. A block with another
configuration does not exist, so no state of the machine holds one. -/
structure ValidCfg where
  toCfg : Cfg := Cfg.smallest
  ok : toCfg.wf = true := by decide
deriving DecidableEq, Repr, Inhabited

/-- `CFG` as the block was instantiated with it. Every parameter of R8 is OPEN, so nothing is known of it but R9. -/
opaque Config.cfg : ValidCfg

/-- `ENC565(r, g, b)`, the two bytes of an RGB565 pixel in offset order. OPEN (R8, R182, D27). -/
opaque Config.enc565 : Byte → Byte → Byte → Byte × Byte

/-- `ENCGRAY(r, g, b)`, the byte of a Gray8 pixel. OPEN (R8, R182, D28). -/
opaque Config.encGray : Byte → Byte → Byte → Byte

/-- `FB_INIT`: the byte at an offset of a framebuffer just allocated, for each draw. A free value (R50, D39). -/
opaque Config.fbInit : Nat → Nat → Byte

/-- The Transport's response at a draw. A free value (R167, D42). -/
opaque Config.txResponse : Nat → Resp TErr

/-- The reset line's response at a draw. A free value (R167, D42). -/
opaque Config.rstResponse : Nat → Resp RErr

/-- What `REQ_H` and the operand latches hold at power-on. Unspecified (R49). -/
opaque Config.powerOnReq : Req

/-- What `RES` holds at power-on. Unspecified, and no claim may read it (R49). -/
opaque Config.powerOnRes : Res

end Sys2Proof
end

