-- ==== Sys2Proof/Syntax.lean ====
section
/-! DEFINITION. The instructions of CPFSM, one constructor per row of spec/opcode_table.json, in the table's order:
the host requests (spec/30_encoding.md R121, R122), the pseudo-requests (R128), and the controller transactions the
block emits (R105, R107, R108). Every operand stands in the row's own width. Beside them the transaction and the
actions of an action list (R15, R100). -/

namespace Sys2Proof

/-- One (coordinate, colour) pair of a DRAW_ITER sequence (R184): signed 32-bit coordinates, three u8 channels. -/
structure Pixel where
  x : Word
  y : Word
  r : Byte
  g : Byte
  b : Byte
deriving DecidableEq, Repr, Inhabited

/-- The instructions: requests the block accepts and transactions it emits (R2). -/
inductive Instr where
  -- host requests (R121)
  | construct
  | reset
  | init
  /-- `x`, `y` are s32 values; `r`, `g`, `b` the colour's channels. -/
  | writePixel (x y : Word) (r g b : Byte)
  | getSize
  | fbSize (m : ColorMode)
  | flushFull
  /-- Operand order of R122: x_start, x_end, y_start, y_end, mode. -/
  | flushPartial (xs xe ys ye : Half) (mode : ColorMode)
  | sleepIn
  | sleepOut
  | displayOn
  | displayOff
  | setMadctl (value : Byte)
  | setBrightness (level : Byte)
  /-- Operand order of R122: x_start, y_start, x_end, y_end. -/
  | setWindow (xs ys xe ye : Half)
  -- pseudo-requests (R128)
  | drawIter (pixels : List Pixel)
  | fullWindow
  -- controller transactions (R107, R108)
  | slpout
  | slpin
  | colmod
  | teoff
  | dispon
  | dispoff
  | bright (level : Byte)
  | madctl (value : Byte)
  | caset (xs xe : Half)
  | raset (ys ye : Half)
  | ramwr (payload : Bytes)
  | ramwrc (payload : Bytes)
  | mfrEntry (cmd : Byte) (data : Bytes)
deriving DecidableEq, Repr

/-- The data-width mode of a transaction (R100). -/
inductive DataMode where
  | single
  | quad
deriving DecidableEq, Repr, Inhabited

/-- One half-duplex transaction, handed to the Transport as one unit (R100). The spec gives `LEN` no width. -/
structure Txn where
  dm : DataMode
  opc : Byte
  addr : Addr
  len : Nat
  payload : Bytes
deriving DecidableEq, Repr, Inhabited

/-- A level of the reset line (R160). -/
inductive Level where
  | low
  | high
deriving DecidableEq, Repr, Inhabited

/-- One action of an action list (R15). -/
inductive Action where
  | tx (t : Txn)
  | rst (l : Level)
  | dly (ms : Nat)
  /-- An internal framebuffer write. -/
  | fbw (off : Nat) (bytes : Bytes)
deriving DecidableEq, Repr, Inhabited

end Sys2Proof
end

