-- ==== Sys2Proof/WellFormed.lean ====
section
/-! DEFINITION. Which instruction terms exist on a block with a given configuration. Every operand of a host request
has exactly its field's width, so every request term exists. Of the transactions, a pixel chunk carries 1 to MAX_CHUNK
bytes (spec/30_encoding.md R105, R113), and a manufacturer entry is one of MFR_INIT (R107, R108). -/

namespace Sys2Proof

/-- The payload length of a pixel chunk is in `1 .. MAX_CHUNK` (R105). -/
def chunkLengthOk (c : Cfg) (payload : Bytes) : Bool :=
  decide (1 ≤ payload.length) && decide (payload.length ≤ c.maxChunk)

/-- The instruction exists on a block configured as `c`. -/
def Instr.wf (c : Cfg) : Instr → Bool
  | .construct => true
  | .reset => true
  | .init => true
  | .writePixel _ _ _ _ _ => true
  | .getSize => true
  | .fbSize _ => true
  | .flushFull => true
  | .flushPartial _ _ _ _ _ => true
  | .sleepIn => true
  | .sleepOut => true
  | .displayOn => true
  | .displayOff => true
  | .setMadctl _ => true
  | .setBrightness _ => true
  | .setWindow _ _ _ _ => true
  | .drawIter _ => true
  | .fullWindow => true
  | .slpout => true
  | .slpin => true
  | .colmod => true
  | .teoff => true
  | .dispon => true
  | .dispoff => true
  | .bright _ => true
  | .madctl _ => true
  | .caset _ _ => true
  | .raset _ _ => true
  | .ramwr payload => chunkLengthOk c payload
  | .ramwrc payload => chunkLengthOk c payload
  | .mfrEntry cmd data => decide ((cmd, data) ∈ c.mfrInit)

end Sys2Proof
end

