-- ==== Sys2Proof/Decode.lean ====
section
/-! DEFINITION. Decoding and encoding. A host request is five 32-bit words (spec/30_encoding.md R120 to R129): the
decoder is total on them and rejects by name. A transaction is the five fields of R100: the decoder reads its row of
the opcode table back, given the configuration, and rejects the patterns CPFSM never emits (R113). The encoders below
are written from the same tables. -/

namespace Sys2Proof

/-! ### Fields of a request -/

/-- `REQ_H[7:0]` (R120). -/
def Req.op (q : Req) : Byte := q.h.extractLsb' 0 8

/-- `REQ_H[9:8]` (R120). -/
def Req.modeArg (q : Req) : BitVec 2 := q.h.extractLsb' 8 2

/-- `REQ_H[31:10]`, the header's reserved bits (R120). -/
def Req.reservedBits (q : Req) : BitVec 22 := q.h.extractLsb' 10 22

/-- The low 8 bits of a word. -/
def lowByte (w : Word) : Byte := w.extractLsb' 0 8

/-- The low 16 bits of a word. -/
def lowHalf (w : Word) : Half := w.extractLsb' 0 16

/-- Bits 31 to 8 are 0, as the operand word of a u8 must have them (R122, R123). -/
def highZero8 (w : Word) : Bool := decide (w.extractLsb' 8 24 = 0)

/-- Bits 31 to 16 are 0, as the operand word of a u16 must have them (R122, R123). -/
def highZero16 (w : Word) : Bool := decide (w.extractLsb' 16 16 = 0)

/-- Bits 31 to 24 are 0, as the operand word of a colour must have them (R122, R123). -/
def highZero24 (w : Word) : Bool := decide (w.extractLsb' 24 8 = 0)

/-- The colour mode of a code (R126). All four codes are assigned. -/
def ColorMode.ofCode (k : BitVec 2) : ColorMode :=
  if k = 0 then .rgb565 else if k = 1 then .rgb888 else if k = 2 then .rgb666 else .gray8

/-- The code of a colour mode (R126). -/
def ColorMode.code : ColorMode → BitVec 2
  | .rgb565 => 0
  | .rgb888 => 1
  | .rgb666 => 2
  | .gray8 => 3

/-! ### The opcode map (R121) -/

def opConstruct : Byte := 0x01
def opReset : Byte := 0x02
def opInit : Byte := 0x03
def opWritePixel : Byte := 0x10
def opGetSize : Byte := 0x11
def opFbSize : Byte := 0x12
def opFlushFull : Byte := 0x20
def opFlushPartial : Byte := 0x21
def opSleepIn : Byte := 0x30
def opSleepOut : Byte := 0x31
def opDisplayOn : Byte := 0x32
def opDisplayOff : Byte := 0x33
def opSetMadctl : Byte := 0x34
def opSetBrightness : Byte := 0x35
def opSetWindow : Byte := 0x36

/-! ### Decoding a request -/

/-- Why a word string is no request: the refusals of R123 and R124, and a length other than R129's. -/
inductive DecodeError where
  /-- The string is not five words long (R129). -/
  | badLength
  /-- `OP` is not in the table of R121 (R124). -/
  | unassignedOp (op : Byte)
  /-- A reserved header bit is 1 (R123). -/
  | reservedHeaderBit
  /-- `MODE_ARG` is not 0 and the request must have 0 (R123). -/
  | modeArgNotZero
  /-- A reserved bit of an operand word the request uses is 1 (R123). -/
  | reservedOperandBit
deriving DecidableEq, Repr

/-- A request that reads no mode: its `MODE_ARG` must be 0 (R122, R123). -/
def decodeNoMode (q : Req) (i : Instr) : Except DecodeError Instr :=
  if q.modeArg = 0 then .ok i else .error .modeArgNotZero

/-- A request whose operand words have reserved bits: `clear` says that they are all 0 (R123). -/
def decodeClear (clear : Bool) (r : Except DecodeError Instr) : Except DecodeError Instr :=
  if clear then r else .error .reservedOperandBit

/-- `OP` selects the request; its operands come from the fields of R122. A word it does not use is not examined. -/
def decodeOp (q : Req) : Except DecodeError Instr :=
  if q.op = opConstruct then decodeNoMode q .construct
  else if q.op = opReset then decodeNoMode q .reset
  else if q.op = opInit then decodeNoMode q .init
  else if q.op = opWritePixel then
    decodeClear (highZero24 q.c) (decodeNoMode q
      (.writePixel q.a q.b (q.c.extractLsb' 16 8) (q.c.extractLsb' 8 8) (q.c.extractLsb' 0 8)))
  else if q.op = opGetSize then decodeNoMode q .getSize
  else if q.op = opFbSize then .ok (.fbSize (.ofCode q.modeArg))
  else if q.op = opFlushFull then decodeNoMode q .flushFull
  else if q.op = opFlushPartial then
    decodeClear (highZero16 q.a && highZero16 q.b && highZero16 q.c && highZero16 q.d)
      (.ok (.flushPartial (lowHalf q.a) (lowHalf q.b) (lowHalf q.c) (lowHalf q.d) (.ofCode q.modeArg)))
  else if q.op = opSleepIn then decodeNoMode q .sleepIn
  else if q.op = opSleepOut then decodeNoMode q .sleepOut
  else if q.op = opDisplayOn then decodeNoMode q .displayOn
  else if q.op = opDisplayOff then decodeNoMode q .displayOff
  else if q.op = opSetMadctl then
    decodeClear (highZero8 q.a) (decodeNoMode q (.setMadctl (lowByte q.a)))
  else if q.op = opSetBrightness then
    decodeClear (highZero8 q.a) (decodeNoMode q (.setBrightness (lowByte q.a)))
  else if q.op = opSetWindow then
    decodeClear (highZero16 q.a && highZero16 q.b && highZero16 q.c && highZero16 q.d)
      (decodeNoMode q (.setWindow (lowHalf q.a) (lowHalf q.b) (lowHalf q.c) (lowHalf q.d)))
  else .error (.unassignedOp q.op)

/-- The decoder of a host request: every 160-bit value is one request or a rejection by name (R129). -/
def decodeReq (q : Req) : Except DecodeError Instr :=
  if q.reservedBits = 0 then decodeOp q else .error .reservedHeaderBit

/-- The decoder on a string of words of any length: a request is exactly five of them (R120, R129). -/
def decodeWords : List Word → Except DecodeError Instr
  | [h, a, b, c, d] => decodeReq ⟨h, a, b, c, d⟩
  | _ => .error .badLength

/-! ### Encoding a request -/

/-- The header word of an opcode and a mode code, its reserved bits 0 (R120). -/
def reqHeader (op : Byte) (modeArg : BitVec 2) : Word := (0 : BitVec 22) ++ modeArg ++ op

/-- A request that reads no operand and no mode; the words it does not use are 0. -/
def reqPlain (op : Byte) : Req := ⟨reqHeader op 0, 0, 0, 0, 0⟩

/-- The words of a WRITE_PIXEL (R122). -/
def reqWritePixel (x y : Word) (r g b : Byte) : Req := ⟨reqHeader opWritePixel 0, x, y, (0 : Byte) ++ r ++ g ++ b, 0⟩

/-- The words of a SET_WINDOW (R122). -/
def reqSetWindow (xs ys xe ye : Half) : Req :=
  ⟨reqHeader opSetWindow 0, xs.zeroExtend 32, ys.zeroExtend 32, xe.zeroExtend 32, ye.zeroExtend 32⟩

/-- The words of a host request (R120 to R122). A pseudo-request and a transaction have none (R128). -/
def encodeReq : Instr → Option Req
  | .construct => some (reqPlain opConstruct)
  | .reset => some (reqPlain opReset)
  | .init => some (reqPlain opInit)
  | .writePixel x y r g b => some (reqWritePixel x y r g b)
  | .getSize => some (reqPlain opGetSize)
  | .fbSize m => some ⟨reqHeader opFbSize m.code, 0, 0, 0, 0⟩
  | .flushFull => some (reqPlain opFlushFull)
  | .flushPartial xs xe ys ye m =>
      some ⟨reqHeader opFlushPartial m.code, xs.zeroExtend 32, xe.zeroExtend 32, ys.zeroExtend 32, ye.zeroExtend 32⟩
  | .sleepIn => some (reqPlain opSleepIn)
  | .sleepOut => some (reqPlain opSleepOut)
  | .displayOn => some (reqPlain opDisplayOn)
  | .displayOff => some (reqPlain opDisplayOff)
  | .setMadctl value => some { reqPlain opSetMadctl with a := value.zeroExtend 32 }
  | .setBrightness level => some { reqPlain opSetBrightness with a := level.zeroExtend 32 }
  | .setWindow xs ys xe ye => some (reqSetWindow xs ys xe ye)
  | .drawIter _ => none
  | .fullWindow => none
  | .slpout => none
  | .slpin => none
  | .colmod => none
  | .teoff => none
  | .dispon => none
  | .dispoff => none
  | .bright _ => none
  | .madctl _ => none
  | .caset _ _ => none
  | .raset _ _ => none
  | .ramwr _ => none
  | .ramwrc _ => none
  | .mfrEntry _ _ => none

/-! ### Assembling a transaction -/

/-- `ADDR = zext_24(cmd) << 8` (R102). -/
def txnAddr (cmd : Byte) : Addr := cmd.zeroExtend 24 <<< 8

/-- The forms CMD and CMDD: single mode, the control opcode, `LEN` 0 (R101 to R105). -/
def txnCommand (c : Cfg) (cmd : Byte) (data : Bytes) : Txn :=
  { dm := .single, opc := c.ctrlOpcode, addr := txnAddr cmd, len := 0, payload := data }

/-- The forms PIX0 and PIXC: quad mode, the pixel opcode, `LEN` 0 (R101 to R105). -/
def txnPixels (c : Cfg) (cmd : Byte) (chunk : Bytes) : Txn :=
  { dm := .quad, opc := c.pixelOpcode, addr := txnAddr cmd, len := 0, payload := chunk }

/-- A u16 as two bytes, the high byte first (R110). -/
def be16 (v : Half) : Bytes := [v.extractLsb' 8 8, v.extractLsb' 0 8]

/-- The payload of a CASET or a RASET: start and end, each big-endian (R110). -/
def windowPayload (first last : Half) : Bytes := be16 first ++ be16 last

/-- The transaction of a row of the opcode table (R107, R108, R110 to R112). A request and a pseudo-request are none. -/
def encodeTxn (c : Cfg) : Instr → Option Txn
  | .slpout => some (txnCommand c c.cmdSlpout [])
  | .slpin => some (txnCommand c c.cmdSlpin [])
  | .colmod => some (txnCommand c c.cmdColmod [c.pixfmt c.mode])
  | .teoff => some (txnCommand c c.cmdTeoff [])
  | .dispon => some (txnCommand c c.cmdDispon [])
  | .dispoff => some (txnCommand c c.cmdDispoff [])
  | .bright level => some (txnCommand c c.cmdBright [level])
  | .madctl value => some (txnCommand c c.cmdMadctl [value])
  | .caset xs xe => some (txnCommand c c.cmdCaset (windowPayload xs xe))
  | .raset ys ye => some (txnCommand c c.cmdRaset (windowPayload ys ye))
  | .ramwr payload => some (txnPixels c c.cmdRamwr payload)
  | .ramwrc payload => some (txnPixels c c.cmdRamwrc payload)
  | .mfrEntry cmd data => some (txnCommand c cmd data)
  | .construct => none
  | .reset => none
  | .init => none
  | .writePixel _ _ _ _ _ => none
  | .getSize => none
  | .fbSize _ => none
  | .flushFull => none
  | .flushPartial _ _ _ _ _ => none
  | .sleepIn => none
  | .sleepOut => none
  | .displayOn => none
  | .displayOff => none
  | .setMadctl _ => none
  | .setBrightness _ => none
  | .setWindow _ _ _ _ => none
  | .drawIter _ => none
  | .fullWindow => none

/-! ### Decoding a transaction -/

/-- `ADDR[15:8]`, the command byte (R102). -/
def Txn.cmd (t : Txn) : Byte := t.addr.extractLsb' 8 8

/-- The address and length fields every transaction of the block has: only `ADDR[15:8]` may be nonzero (R102, R104). -/
def Txn.fieldsOk (t : Txn) : Bool :=
  decide (t.addr.extractLsb' 16 8 = 0) && decide (t.addr.extractLsb' 0 8 = 0) && decide (t.len = 0)

/-- A command that no other row explains is a manufacturer entry, if it is one (R108). -/
def decodeMfr (c : Cfg) (cmd : Byte) (data : Bytes) : Option Instr :=
  if (cmd, data) ∈ c.mfrInit then some (.mfrEntry cmd data) else none

/-- The command rows whose payload is empty (R107). -/
def decodeBare (c : Cfg) (cmd : Byte) : Option Instr :=
  if cmd = c.cmdSlpout then some .slpout
  else if cmd = c.cmdSlpin then some .slpin
  else if cmd = c.cmdTeoff then some .teoff
  else if cmd = c.cmdDispon then some .dispon
  else if cmd = c.cmdDispoff then some .dispoff
  else decodeMfr c cmd []

/-- The command rows whose payload is one byte (R107, R111, R112). -/
def decodeOneByte (c : Cfg) (cmd v : Byte) : Option Instr :=
  if cmd = c.cmdBright then some (.bright v)
  else if cmd = c.cmdMadctl then some (.madctl v)
  else if cmd = c.cmdColmod ∧ v = c.pixfmt c.mode then some .colmod
  else decodeMfr c cmd [v]

/-- The command rows whose payload is two big-endian u16 values (R107, R110). -/
def decodeFourBytes (c : Cfg) (cmd p0 p1 p2 p3 : Byte) : Option Instr :=
  if cmd = c.cmdCaset then some (.caset (p0 ++ p1) (p2 ++ p3))
  else if cmd = c.cmdRaset then some (.raset (p0 ++ p1) (p2 ++ p3))
  else decodeMfr c cmd [p0, p1, p2, p3]

/-- A command transaction's row, by its command byte and its payload. -/
def decodeCommand (c : Cfg) (cmd : Byte) : Bytes → Option Instr
  | [] => decodeBare c cmd
  | [v] => decodeOneByte c cmd v
  | [p0, p1, p2, p3] => decodeFourBytes c cmd p0 p1 p2 p3
  | data => decodeMfr c cmd data

/-- A pixel transaction's row: the first chunk of a burst or a later one, 1 to MAX_CHUNK bytes (R105, R151). -/
def decodePixels (c : Cfg) (cmd : Byte) (payload : Bytes) : Option Instr :=
  if chunkLengthOk c payload then
    if cmd = c.cmdRamwr then some (.ramwr payload)
    else if cmd = c.cmdRamwrc then some (.ramwrc payload)
    else none
  else none

/-- The row of the opcode table a transaction is, on a block configured as `c`; none for a pattern CPFSM never emits
(R113). Two rows can have one transaction only if command bytes coincide (R106), and then either row has the same
effect: the transaction itself. -/
def decodeTxn (c : Cfg) (t : Txn) : Option Instr :=
  if t.fieldsOk then
    if t.dm = .single ∧ t.opc = c.ctrlOpcode then decodeCommand c t.cmd t.payload
    else if t.dm = .quad ∧ t.opc = c.pixelOpcode then decodePixels c t.cmd t.payload
    else none
  else none

/-! ### The opcode table's words -/

/-- A request from one number: bit 0 is bit 0 of `REQ_H`, and `A` to `D` count on from it. -/
def reqOfNat (w : Nat) : Req :=
  ⟨BitVec.ofNat 32 w, BitVec.ofNat 32 (w >>> 32), BitVec.ofNat 32 (w >>> 64), BitVec.ofNat 32 (w >>> 96),
    BitVec.ofNat 32 (w >>> 128)⟩

/-- The transaction head of the table's 33 bits `DM OPC ADDR`, with `DM` bit 32, and a payload. -/
def txnOfNat (w : Nat) (payload : Bytes) : Txn :=
  { dm := if (w >>> 32) % 2 = 1 then .quad else .single, opc := BitVec.ofNat 8 (w >>> 24), addr := BitVec.ofNat 24 w,
    len := 0, payload := payload }

/-- The payloads a transaction row can have when the table gives it no payload bits: empty, zeros of the row's length,
the pixel format, or the data of a manufacturer entry. -/
def tablePayloads (c : Cfg) : List Bytes :=
  [[], [0], [0, 0, 0, 0], [c.pixfmt c.mode]] ++ c.mfrInit.map Prod.snd

/-- The transaction a table word of 33 bits stands for: its head with the first payload that makes it a row. -/
def txnOfTableWord (c : Cfg) (w : Nat) : Txn :=
  txnOfNat w (((tablePayloads c).find? fun p => (decodeTxn c (txnOfNat w p)).isSome).getD [])

/-- A table row of 33 bits, 40 in whole bytes, is a transaction; every other row is a request. -/
def isTxnWidth (nbits : Nat) : Bool := decide (33 ≤ nbits) && decide (nbits ≤ 40)

/-- What the decoder reads from an instruction numbered as the opcode table numbers it. -/
def decodeTableWord (nbits w : Nat) : Option Instr :=
  if isTxnWidth nbits then decodeTxn Config.cfg.toCfg (txnOfTableWord Config.cfg.toCfg w)
  else match decodeReq (reqOfNat w) with
    | .ok i => some i
    | .error _ => none

end Sys2Proof
end

