-- ==== Sys2Proof/Machine/State.lean ====
section
/-! DEFINITION. The state of CPFSM (spec/10_state.md R30 to R50), the faults and refusals (spec/60_exceptions.md R295,
R296), and the state at power-on (R49). All of it is plain data. -/

namespace Sys2Proof.Machine

/-- The lifecycle state `PHASE` (R31). Its codes 6 and 7 are reserved and never held, so no constructor stands for one. -/
inductive Phase where
  | powerOn
  | constructing
  | reset
  | initializing
  | ready
  | failed
deriving DecidableEq, Repr, Inhabited

/-- The 3-bit code of a phase (R31). -/
def Phase.code : Phase → BitVec 3
  | .powerOn => 0
  | .constructing => 1
  | .reset => 2
  | .initializing => 3
  | .ready => 4
  | .failed => 5

/-- A window with inclusive bounds (R17, R45). -/
structure Rect where
  xs : Half
  ys : Half
  xe : Half
  ye : Half
deriving DecidableEq, Repr, Inhabited

/-- The ghost `gwin`: what is known of the controller's window (R45). -/
inductive Gwin where
  | unknown
  | rect (r : Rect)
deriving DecidableEq, Repr, Inhabited

/-- One entry of `trace`: an external action with its response (R47). A delay's response is always `Ok` (R163). -/
inductive Event where
  | tx (t : Txn) (r : Resp TErr)
  | rst (l : Level) (r : Resp RErr)
  | dly (ms : Nat)
deriving DecidableEq, Repr

/-- Framebuffer contents: (offset, byte) pairs, offsets strictly rising, no byte 0. An offset that is not listed holds
the byte 0. A framebuffer gets all its bytes when it is allocated (R50), so this is how a 0 is written down, not what
a byte nobody has written reads as. -/
abbrev Memory := List Host.Cell

/-- The sequencer (R36), and the transient window of the request in progress (R17, R48), which `gwin` takes at
completion (R46). -/
structure Seq where
  /-- `seq.op`: the opcode of the request in progress; none at power-on. -/
  op : Option Byte
  /-- `seq.list`: the action list its expansion returned. -/
  list : List Action
  /-- `seq.k`: the index of the next action to perform. -/
  k : Nat
  /-- The window the request sends, if it sends one. -/
  window : Option Rect
deriving DecidableEq, Repr

/-- The agents outside the block (R4): what the host has yet to issue and what the collaborators will answer. None of
it is state the spec gives CPFSM. When a list of answers is empty the next answer is a free value of Config. -/
structure Env where
  /-- The requests the host will issue, oldest first. -/
  host : List Req
  /-- The Transport's next responses, oldest first. -/
  txAnswers : List (Resp TErr)
  /-- The reset line's next responses, oldest first. -/
  rstAnswers : List (Resp RErr)
  /-- How many free values have been drawn. -/
  draws : Nat
deriving DecidableEq, Repr

/-- The machine: the state of R30 and, in `env`, the agents outside it. -/
structure State where
  /-- `CFG`, read-only (R41). -/
  cfg : ValidCfg
  /-- `PHASE` (R31). -/
  phase : Phase
  /-- `BUSY` (R34). -/
  busy : Bool
  /-- `seq.op`, `seq.list`, `seq.k` (R36). -/
  seq : Seq
  /-- `REQ_H` and the operand latches `A` to `D` (R35, R38). -/
  req : Req
  /-- `RES` (R39). -/
  res : Res
  /-- `fb`, absent or `FBLEN(MODE)` bytes (R42). -/
  fb : Option Memory
  /-- `gwin` (R45). -/
  gwin : Gwin
  /-- `trace`, oldest entry first (R47). -/
  trace : List Event
  env : Env
deriving DecidableEq, Repr

/-- The configuration without the proof that it passes the check of R9. -/
abbrev State.c (s : State) : Cfg := s.cfg.toCfg

/-- What stops the machine with a fault. No state a run reaches raises one (R295). -/
inductive Fault where
  /-- An access to `[off, off + n)` that is not within `[0, FBLEN)` (R71, R72, R295). Raised by the internal framebuffer
  write. Safe: the machine stops where the spec itself calls the access a fault. -/
  | fbOutOfRange (off n : Nat)
  /-- An access to `fb` while it is absent (R42). Raised by WRITE_PIXEL, DRAW_ITER and the flushes in a state that says
  READY without a framebuffer, which no run reaches. Safe: the machine stops. -/
  | fbAbsent
deriving DecidableEq, Repr

/-- Why a request or a transaction has no meaning here (R296). A refusal ends the run: no claim about it goes on. -/
inductive Refusal where
  /-- An instruction the model has no meaning for yet. Raised by no instruction of this model. Safe. -/
  | notModelled (mnemonic : String)
  /-- The words are no request (R123, R124, R129). Raised when the next request is fetched. Safe. -/
  | badRequest (e : DecodeError)
  /-- `PHASE` does not admit the request (R125). Raised by every host request and pseudo-request. Safe. -/
  | notAdmitted (p : Phase)
  /-- A request while `BUSY = 1`: the host has no move then (R297). Raised by every host request and pseudo-request. Safe. -/
  | busy
  /-- A transaction that is not the action the sequencer is at (R80, R128). Raised by every transaction. Safe. -/
  | notCurrent
  /-- A transaction CPFSM never emits (R113). Raised when the sequencer's next action is fetched. Safe. -/
  | neverEmitted
deriving DecidableEq, Repr

/-- The state at power-on, before any request, of a block instantiated with `cfg` (R49). -/
def State.powerOn (cfg : ValidCfg) : State :=
  { cfg := cfg
    phase := .powerOn
    busy := false
    seq := { op := none, list := [], k := 0, window := none }
    req := Config.powerOnReq
    res := Config.powerOnRes
    fb := none
    gwin := .unknown
    trace := []
    env := { host := [], txAnswers := [], rstAnswers := [], draws := 0 } }

/-- Instantiating a block: one whose configuration fails the check of R9 is refused and never exists. -/
def State.instantiate (c : Cfg) : Option State :=
  if h : c.wf = true then some (State.powerOn ⟨c, h⟩) else none

/-- The machine right after reset: at power-on (R49, R330), with the configuration it was instantiated with. -/
def State.reset : State := State.powerOn Config.cfg

end Sys2Proof.Machine
end

