-- ==== Sys2Proof/Machine/Operands.lean ====
section
/-! DEFINITION. Operand forms: signed pixel coordinates and their clipping, pixel offsets and the pixel encoder
(spec/41_framebuffer.md R180 to R182), windows and their validation (spec/43_flush.md R265 to R271), and the protocol
primitives that turn operands into actions (spec/40_protocol.md R142 to R162, spec/42_lifecycle.md R211, R232, R241). -/

namespace Sys2Proof.Machine

/-! ### Pixels -/

/-- The framebuffer offset of the pixel at column `x`, row `y`, with `n` bytes a pixel (R73). -/
def pixelOffset (c : Cfg) (x y n : Nat) : Nat := (y * c.w.toNat + x) * n

/-- The coordinate, read as signed, is inside the panel (R180, R181). -/
def inPanel (c : Cfg) (x y : Word) : Bool :=
  decide (0 ≤ x.toInt) && decide (x.toInt < c.w.toNat) && decide (0 ≤ y.toInt) && decide (y.toInt < c.h.toNat)

/-- The pixel encoder `ENC(m, (r, g, b))`, `bpp(m)` bytes in offset order (R182). -/
def encodePixel (m : ColorMode) (r g b : Byte) : Bytes :=
  match m with
  | .rgb888 => [r, g, b]
  | .rgb666 => [r, g, b]
  | .rgb565 => [(Config.enc565 r g b).1, (Config.enc565 r g b).2]
  | .gray8 => [Config.encGray r g b]

/-- The framebuffer write a pixel write expands to: none when the pixel is clipped (R180). -/
def pixelWrite (c : Cfg) (x y : Word) (r g b : Byte) : Option (Nat × Bytes) :=
  if inPanel c x y then
    some (pixelOffset c x.toInt.toNat y.toInt.toNat c.mode.bpp, encodePixel c.mode r g b)
  else none

/-! ### Protocol primitives -/

/-- `send_command(cmd)` (R142). -/
def sendCommand (c : Cfg) (cmd : Byte) : List Action := [.tx (txnCommand c cmd [])]

/-- `send_command_with_data(cmd, data)`; the data is never chunked (R143). -/
def sendCommandData (c : Cfg) (cmd : Byte) (data : Bytes) : List Action := [.tx (txnCommand c cmd data)]

/-- `ceil_div(a, b)` (R12). -/
def ceilDiv (a b : Nat) : Nat := (a + b - 1) / b

/-- The bytes `P[i*C .. min((i+1)*C, len P))` (R150). -/
def chunkAt (size : Nat) (payload : Bytes) (i : Nat) : Bytes := (payload.drop (i * size)).take size

/-- The command byte of a burst's chunk: RAMWR for chunk 0, RAMWRC for every later one (R151). -/
def chunkCmd (c : Cfg) (i : Nat) : Byte := if i = 0 then c.cmdRamwr else c.cmdRamwrc

/-- `send_pixels(P)`: one transaction for each chunk of at most MAX_CHUNK bytes (R150). -/
def sendPixels (c : Cfg) (payload : Bytes) : List Action :=
  (List.range (ceilDiv payload.length c.maxChunk)).map fun i =>
    .tx (txnPixels c (chunkCmd c i) (chunkAt c.maxChunk payload i))

/-- `reset_sequence()`; a delay of 0 is emitted too (R162). -/
def resetSequence (c : Cfg) : List Action := [.rst .low, .dly c.tRstLow, .rst .high, .dly c.tRstHigh]

/-- `opt_delay(t)`: no action when the settle delay is 0 (R232). -/
def optDelay (t : Nat) : List Action := if 1 ≤ t then [.dly t] else []

/-- The manufacturer's entries in list order (R108, R211 step 2). -/
def mfrActions (c : Cfg) : List Action := c.mfrInit.flatMap fun e => sendCommandData c e.1 e.2

/-- `INIT_SEQ` (R211). -/
def initSeq (c : Cfg) : List Action :=
  sendCommand c c.cmdSlpout ++ [Action.dly c.tInitSlpout] ++
  mfrActions c ++
  sendCommandData c c.cmdColmod [c.pixfmt c.mode] ++
  sendCommand c c.cmdTeoff ++
  sendCommand c c.cmdDispon ++ [Action.dly c.tInitDispon] ++
  sendCommandData c c.cmdBright [c.brightMax]

/-- `window_actions(xs, ys, xe, ye)`: CASET, then RASET (R241). -/
def windowActions (c : Cfg) (r : Rect) : List Action :=
  sendCommandData c c.cmdCaset (windowPayload r.xs r.xe) ++ sendCommandData c c.cmdRaset (windowPayload r.ys r.ye)

/-! ### Windows -/

/-- The window of the whole panel, `(0, 0)` to `(W-1, H-1)` (R128, R260). -/
def fullWindow (c : Cfg) : Rect := { xs := 0, ys := 0, xe := c.w - 1, ye := c.h - 1 }

/-- The checks V1 to V4 of a partial flush (R266 to R269). -/
def windowValid (c : Cfg) (r : Rect) : Bool :=
  decide (r.xs.toNat ≤ r.xe.toNat) && decide (r.ys.toNat ≤ r.ye.toNat) &&
    decide (r.xe.toNat ≤ c.maxColIndex.toNat) && decide (r.ye.toNat ≤ c.h.toNat - 1)

/-- The rows of a window, top to bottom (R265). -/
def windowRows (r : Rect) : List Nat :=
  (List.range (r.ye.toNat + 1 - r.ys.toNat)).map fun i => r.ys.toNat + i

/-- The offset of a window's first byte in row `y`, with the argument mode's bytes per pixel (R271, R273). -/
def rowOffset (c : Cfg) (r : Rect) (m : ColorMode) (y : Nat) : Nat := pixelOffset c r.xs.toNat y m.bpp

/-- The bytes a window takes of each row (R271, R273). -/
def rowLength (r : Rect) (m : ColorMode) : Nat := (r.xe.toNat + 1 - r.xs.toNat) * m.bpp

end Sys2Proof.Machine
end

