-- ==== Sys2Proof/Machine/Flags.lean ====
section
/-! DEFINITION. What a completing request leaves in the status flags: `RES` (spec/10_state.md R39, R40), `PHASE` (R32)
and the ghost `gwin` (R46). CPFSM has no condition codes (R48). -/

namespace Sys2Proof.Machine

/-- How a request completes: with OK and its two result values, or with one of the three errors (R290 to R294). -/
inductive Completion where
  | ok (v0 v1 : Word)
  | interfaceError (e : TErr)
  | resetError (e : RErr)
  | invalidConfiguration
deriving DecidableEq, Repr

/-- What `RES` holds after a completion. A request that writes no result value leaves 0 there (R39). -/
def Completion.res : Completion → Res
  | .ok v0 v1 => { status := .ok, err := .none, v0 := v0, v1 := v1 }
  | .interfaceError e => { status := .interfaceError, err := .transport e, v0 := 0, v1 := 0 }
  | .resetError e => { status := .resetError, err := .resetLine e, v0 := 0, v1 := 0 }
  | .invalidConfiguration => { status := .invalidConfiguration, err := .none, v0 := 0, v1 := 0 }

/-- The completion is OK. -/
def Completion.isOk : Completion → Bool
  | .ok _ _ => true
  | .interfaceError _ => false
  | .resetError _ => false
  | .invalidConfiguration => false

/-- The code of `RES.STATUS` (R40). -/
def statusCode : Status → BitVec 2
  | .ok => 0
  | .interfaceError => 1
  | .resetError => 2
  | .invalidConfiguration => 3

/-- A `CONSTRUCT` is in progress: the three phases that exist only then (R33). -/
def inConstruction : Phase → Bool
  | .constructing => true
  | .reset => true
  | .initializing => true
  | .powerOn => false
  | .ready => false
  | .failed => false

/-- `PHASE` after a completion: an error during a construction fails it, its last action makes the block ready, and in
every other phase a completion changes nothing (R32, R300). -/
def phaseAfter (p : Phase) (o : Completion) : Phase :=
  if inConstruction p && !o.isOk then .failed
  else if p = .initializing then .ready
  else p

/-- `PHASE` when an action begins: the first reset action of a construction begins the reset (R32). -/
def phaseAtAction (p : Phase) : Phase := if p = .constructing then .reset else p

/-- `PHASE` when the action with index `k` has completed with `Ok`: after action 3 of a construction, the last reset
action, the init sequence begins (R32, R210). -/
def phaseAfterAction (p : Phase) (k : Nat) : Phase := if p = .reset ∧ k = 3 then .initializing else p

/-- The requests that leave the window unknown whatever their outcome: CONSTRUCT, RESET and INIT (R46). -/
def forgetsWindow (op : Option Byte) : Bool :=
  decide (op = some opConstruct) || decide (op = some opReset) || decide (op = some opInit)

/-- `gwin` after a completion (R46). -/
def gwinAfter (op : Option Byte) (window : Option Rect) (g : Gwin) (o : Completion) : Gwin :=
  match o with
  | .invalidConfiguration => g
  | .interfaceError _ => .unknown
  | .resetError _ => .unknown
  | .ok _ _ =>
    if forgetsWindow op then .unknown
    else match window with
      | some r => .rect r
      | none => g

/-- The first result value of a 64-bit size: bits 31 to 0 (R188). -/
def sizeLow (n : Nat) : Word := BitVec.ofNat 32 n

/-- The second result value of a 64-bit size: bits 63 to 32 (R188). -/
def sizeHigh (n : Nat) : Word := BitVec.ofNat 32 (n >>> 32)

end Sys2Proof.Machine
end

