-- ==== Sys2Proof/Machine/Ops.lean ====
section
/-! DEFINITION. The named operations over the framebuffer, the collaborators, the sequencer and the request registers:
spec/20_memory.md R70 to R73, spec/40_protocol.md R140 to R167, spec/60_exceptions.md R290 to R301. Errors are the
block's only exceptions: `State.raise` is their one entry, and there is no return from one (R301). -/

namespace Sys2Proof.Machine

/-- The outcome of one step of this machine. -/
abbrev Out := Host.Outcome State Fault Refusal

/-! ### Framebuffer contents -/

/-- The byte at an offset. -/
def Memory.read (m : Memory) (a : Nat) : Byte :=
  match m with
  | [] => 0
  | cell :: rest => if cell.1 = a then cell.2 else Memory.read rest a

/-- The contents with one byte set, in canonical form again. -/
def Memory.write (m : Memory) (a : Nat) (v : Byte) : Memory :=
  match m with
  | [] => if v = 0 then [] else [(a, v)]
  | cell :: rest =>
    if cell.1 < a then cell :: Memory.write rest a v
    else if cell.1 = a then (if v = 0 then rest else (a, v) :: rest)
    else if v = 0 then cell :: rest else (a, v) :: cell :: rest

/-- The bytes `[off, off + n)` (R71). -/
def Memory.readBytes (m : Memory) (off n : Nat) : Bytes := (List.range n).map fun i => Memory.read m (off + i)

/-- The contents with consecutive bytes set from `off` on (R72). -/
def Memory.writeBytes (m : Memory) (off : Nat) : Bytes → Memory
  | [] => m
  | v :: rest => Memory.writeBytes (Memory.write m off v) (off + 1) rest

/-- The contents whose byte at each offset below `n` is `f` of it (R50). -/
def Memory.ofBytes (f : Nat → Byte) (n : Nat) : Memory :=
  (List.range n).filterMap fun i => if f i = 0 then none else some (i, f i)

/-- The canonical form: offsets strictly rising and not below `lo`, no byte 0. -/
def Memory.wfFrom (lo : Nat) : Memory → Bool
  | [] => true
  | cell :: rest => decide (lo ≤ cell.1) && decide (cell.2 ≠ 0) && Memory.wfFrom (cell.1 + 1) rest

/-- The canonical form: offsets strictly rising, no byte 0. -/
def Memory.wf (m : Memory) : Bool := Memory.wfFrom 0 m

/-- `MemRead(off, n)`: defined only within `[0, FBLEN)`, never clamped (R71). -/
def memRead (c : Cfg) (m : Memory) (off n : Nat) : Option Bytes :=
  if off + n ≤ c.fblen then some (Memory.readBytes m off n) else none

/-- `MemWrite(off, len v, v)`: defined only within `[0, FBLEN)`; an access outside is a fault (R72, R295). -/
def State.memWrite (s : State) (off : Nat) (v : Bytes) : Except Fault State :=
  match s.fb with
  | none => .error .fbAbsent
  | some m =>
    if off + v.length ≤ s.c.fblen then .ok { s with fb := some (Memory.writeBytes m off v) }
    else .error (.fbOutOfRange off v.length)

/-- The bytes of a window, row by row from the top: no answer when a row leaves `[0, FBLEN)` (R271). -/
def gatherRows (c : Cfg) (m : Memory) (r : Rect) (mode : ColorMode) : List Nat → Option Bytes
  | [] => some []
  | y :: rest =>
    match memRead c m (rowOffset c r mode y) (rowLength r mode), gatherRows c m r mode rest with
    | some row, some below => some (row ++ below)
    | _, _ => none

/-! ### The collaborators' answers -/

/-- The Transport's next response: the environment's next, or a free value (R167). -/
def State.txResponse (s : State) : Resp TErr :=
  match s.env.txAnswers with
  | r :: _ => r
  | [] => Config.txResponse s.env.draws

/-- The reset line's next response: the environment's next, or a free value (R167). -/
def State.rstResponse (s : State) : Resp RErr :=
  match s.env.rstAnswers with
  | r :: _ => r
  | [] => Config.rstResponse s.env.draws

/-- The environment after the Transport has responded. -/
def Env.afterTx (e : Env) : Env :=
  match e.txAnswers with
  | _ :: rest => { e with txAnswers := rest }
  | [] => { e with draws := e.draws + 1 }

/-- The environment after the reset line has responded. -/
def Env.afterRst (e : Env) : Env :=
  match e.rstAnswers with
  | _ :: rest => { e with rstAnswers := rest }
  | [] => { e with draws := e.draws + 1 }

/-- A framebuffer just allocated: `FBLEN(MODE)` bytes of a fresh free draw (R50). -/
def State.freshFb (s : State) : Memory := Memory.ofBytes (Config.fbInit s.env.draws) s.c.fblen

/-! ### Completion -/

/-- `finish`: the request completes and the block takes the next one (R165, R300). A construction that fails leaves no
framebuffer: R300 says that no error changes `fb`, while R42, R210, R215 and R331 make it absent after a failed
CONSTRUCT, and spec/90_conflicts.md names no ruling. DESIGN CHOICE, notes/assumptions 25: R210 for a failed CONSTRUCT,
R300 for every other error. -/
def State.finish (s : State) (o : Completion) : State :=
  { s with
    res := o.res
    phase := phaseAfter s.phase o
    fb := if inConstruction s.phase && !o.isOk then none else s.fb
    gwin := gwinAfter s.seq.op s.seq.window s.gwin o
    busy := false }

/-- Taking an error, the block's one exception entry: the current request ends at once with the error, and the actions
after the failing one are not performed (R290, R300). What becomes of `fb` is the choice of `State.finish`
(notes/assumptions 25). -/
def State.raise (s : State) (e : Completion) : State := s.finish e

/-! ### The sequencer -/

/-- The action the sequencer is at, while a request is in progress (R36). -/
def State.current (s : State) : Option Action := if s.busy then s.seq.list[s.seq.k]? else none

/-- Accepting a request: `BUSY`, `seq.op`, the expansion's action list and index 0 (R36, R165). -/
def State.load (s : State) (op : Byte) (window : Option Rect) (list : List Action) : State :=
  { s with busy := true, seq := { op := some op, list := list, k := 0, window := window } }

/-- Accepting a request whose expansion is an error: `seq.list` and `seq.k` stay as they are (R165, R166). -/
def State.reject (s : State) (op : Byte) (e : Completion) : State :=
  ({ s with seq := { s.seq with op := some op } }).raise e

/-- Accepting a request that performs no action and completes with OK and two values (R165). -/
def State.answer (s : State) (op : Byte) (v0 v1 : Word) : State := (s.load op none []).finish (.ok v0 v1)

/-- An action begins (R32). -/
def State.beginAction (s : State) : State := { s with phase := phaseAtAction s.phase }

/-- An action has completed with `Ok`: the next one, or the end of the list and of the request (R36, R165). -/
def State.endAction (s : State) : State :=
  let t : State := { s with phase := phaseAfterAction s.phase s.seq.k, seq := { s.seq with k := s.seq.k + 1 } }
  if s.seq.k + 1 < s.seq.list.length then t else t.finish (.ok 0 0)

/-- `TX`: one transaction, its response into `trace`; an error response ends the request (R141). -/
def State.performTx (s : State) (t : Txn) : State :=
  let u : State := { s.beginAction with trace := s.trace ++ [.tx t s.txResponse], env := s.env.afterTx }
  match s.txResponse with
  | .ok => u.endAction
  | .err e => u.raise (.interfaceError e)

/-- `RST`: one level of the reset line, its response into `trace`; an error response ends the request (R160). -/
def State.performRst (s : State) (l : Level) : State :=
  let u : State := { s.beginAction with trace := s.trace ++ [.rst l s.rstResponse], env := s.env.afterRst }
  match s.rstResponse with
  | .ok => u.endAction
  | .err e => u.raise (.resetError e)

/-- `DLY`: always completes (R163). -/
def State.performDly (s : State) (ms : Nat) : State :=
  let u : State := { s.beginAction with trace := s.trace ++ [.dly ms] }
  u.endAction

/-- `FBW`: an internal framebuffer write, not in `trace` (R15, R47, R165). -/
def State.performFbw (s : State) (off : Nat) (v : Bytes) : Out :=
  match s.beginAction.memWrite off v with
  | .ok t => .next t.endAction
  | .error f => .fault f

/-- A transaction of the opcode table is performed when the sequencer is at it, and at no other time (R80, R128). -/
def State.emit (s : State) (t : Txn) : Out :=
  if s.current = some (.tx t) then .next (s.performTx t) else .refused .notCurrent

/-! ### Requests -/

/-- The phases that admit an opcode (R121). -/
def admitted (op : Byte) (p : Phase) : Bool :=
  if op = opConstruct then decide (p = .powerOn) || decide (p = .failed) else decide (p = .ready)

/-- A request is accepted only when no other is in progress (R297) and its phase admits it (R125); a refusal is decided
before anything else (R298). -/
def State.request (s : State) (op : Byte) (accepted : Out) : Out :=
  if s.busy then .refused .busy
  else if admitted op s.phase then accepted
  else .refused (.notAdmitted s.phase)

/-- The words of a request in `REQ_H` and the operand latches (R35, R38). -/
def State.latch (s : State) (q : Req) : State := { s with req := q }

/-- One pixel write: clipped to nothing, or one framebuffer write (R180). -/
def State.writePixel (s : State) (x y : Word) (r g b : Byte) : Out :=
  s.request opWritePixel (
    match pixelWrite s.c x y r g b with
    | none => .next (s.answer opWritePixel 0 0)
    | some (off, v) => (s.load opWritePixel none [.fbw off v]).performFbw off v)

/-- A request whose action list is a window and nothing else (R240). -/
def State.setWindow (s : State) (r : Rect) : Out :=
  s.request opSetWindow (.next (s.load opSetWindow (some r) (windowActions s.c r)))

/-- A control request: a command, with or without data, and its optional settle delay (R230 to R238). -/
def State.control (s : State) (op : Byte) (command : List Action) (delay : Nat) : Out :=
  s.request op (.next (s.load op none (command ++ optDelay delay)))

end Sys2Proof.Machine
end

