-- ==== Sys2Proof/Machine/Control.lean ====
section
/-! DEFINITION. The control requests (spec/42_lifecycle.md R230 to R241): each sends one command with its optional
settle delay, and SET_WINDOW sends two. -/

namespace Sys2Proof.Machine

/-- SLEEP_IN (R230). -/
def execSleepIn (s : State) : Out := s.control opSleepIn (sendCommand s.c s.c.cmdSlpin) s.c.tOpSlpin

/-- SLEEP_OUT (R231). -/
def execSleepOut (s : State) : Out := s.control opSleepOut (sendCommand s.c s.c.cmdSlpout) s.c.tOpSlpout

/-- DISPLAY_ON (R233). -/
def execDisplayOn (s : State) : Out := s.control opDisplayOn (sendCommand s.c s.c.cmdDispon) s.c.tOpDispon

/-- DISPLAY_OFF (R234). -/
def execDisplayOff (s : State) : Out := s.control opDisplayOff (sendCommand s.c s.c.cmdDispoff) s.c.tOpDispoff

/-- SET_MADCTL (R236). -/
def execSetMadctl (value : Byte) (s : State) : Out :=
  s.control opSetMadctl (sendCommandData s.c s.c.cmdMadctl [value]) s.c.tOpMadctl

/-- SET_BRIGHTNESS (R238). -/
def execSetBrightness (level : Byte) (s : State) : Out :=
  s.control opSetBrightness (sendCommandData s.c s.c.cmdBright [level]) s.c.tOpBright

/-- SET_WINDOW: not validated (R240). -/
def execSetWindow (xs ys xe ye : Half) (s : State) : Out := s.setWindow ⟨xs, ys, xe, ye⟩

end Sys2Proof.Machine
end

