-- ==== Sys2Proof/Machine/Flush.lean ====
section
/-! DEFINITION. The flush requests FLUSH_FULL and FLUSH_PARTIAL (spec/43_flush.md R260 to R277). -/

namespace Sys2Proof.Machine

/-- The action list that sends a window and then its bytes (R260, R265). -/
def flushActions (c : Cfg) (r : Rect) (payload : Bytes) : List Action := windowActions c r ++ sendPixels c payload

/-- The expansion of a partial flush: no answer is the error InvalidConfiguration. Every check comes before any action
(R265 to R271). -/
def partialFlush (c : Cfg) (m : Memory) (r : Rect) (mode : ColorMode) : Option (List Action) :=
  if windowValid c r then
    match gatherRows c m r mode (windowRows r) with
    | some payload => some (flushActions c r payload)
    | none => none
  else none

/-- FLUSH_FULL: the whole framebuffer to the whole panel; its range needs no check (R260, R262). -/
def execFlushFull (s : State) : Out :=
  s.request opFlushFull (
    match s.fb with
    | none => .fault .fbAbsent
    | some m =>
      .next (s.load opFlushFull (some (fullWindow s.c))
        (flushActions s.c (fullWindow s.c) (Memory.readBytes m 0 s.c.fblen))))

/-- FLUSH_PARTIAL: one rectangle of the framebuffer, or the error InvalidConfiguration with no action (R265, R270). -/
def execFlushPartial (xs xe ys ye : Half) (mode : ColorMode) (s : State) : Out :=
  s.request opFlushPartial (
    match s.fb with
    | none => .fault .fbAbsent
    | some m =>
      .next (
        match partialFlush s.c m ⟨xs, ys, xe, ye⟩ mode with
        | some list => s.load opFlushPartial (some ⟨xs, ys, xe, ye⟩) list
        | none => s.reject opFlushPartial .invalidConfiguration))

end Sys2Proof.Machine
end

