-- ==== Sys2Proof/Machine/Framebuffer.lean ====
section
/-! DEFINITION. The framebuffer requests WRITE_PIXEL, GET_SIZE and FB_SIZE (spec/41_framebuffer.md R180 to R189). None
emits an external action, so each completes in the step that accepts it. -/

namespace Sys2Proof.Machine

/-- WRITE_PIXEL (R180, R181). -/
def execWritePixel (x y : Word) (r g b : Byte) (s : State) : Out := s.writePixel x y r g b

/-- GET_SIZE: the configured width and height (R186). -/
def execGetSize (s : State) : Out :=
  s.request opGetSize (.next (s.answer opGetSize (s.c.w.zeroExtend 32) (s.c.h.zeroExtend 32)))

/-- FB_SIZE: `W * H * bpp(m)`, exact, in two words (R188). -/
def execFbSize (m : ColorMode) (s : State) : Out :=
  s.request opFbSize (.next (s.answer opFbSize (sizeLow (s.c.fblenOf m)) (sizeHigh (s.c.fblenOf m))))

end Sys2Proof.Machine
end

