-- ==== Sys2Proof/Machine/Lifecycle.lean ====
section
/-! DEFINITION. The lifecycle requests CONSTRUCT, RESET and INIT (spec/42_lifecycle.md R210 to R222). Each is accepted
here; the sequencer then performs its actions, one a step. -/

namespace Sys2Proof.Machine

/-- The action list of a construction: the reset sequence, then the init sequence (R210). -/
def constructActions (c : Cfg) : List Action := resetSequence c ++ initSeq c

/-- CONSTRUCT: allocates the framebuffer with a fresh draw and begins the construction (R210, R50, R32). -/
def execConstruct (s : State) : Out :=
  s.request opConstruct (.next
    (({ s with
        fb := some s.freshFb
        phase := .constructing
        env := { s.env with draws := s.env.draws + 1 } }).load opConstruct none (constructActions s.c)))

/-- RESET: the reset-line sequence again (R220). -/
def execReset (s : State) : Out := s.request opReset (.next (s.load opReset none (resetSequence s.c)))

/-- INIT: the init sequence again (R222). -/
def execInit (s : State) : Out := s.request opInit (.next (s.load opInit none (initSeq s.c)))

end Sys2Proof.Machine
end

