-- ==== Sys2Proof/Machine/Pseudo.lean ====
section
/-! DEFINITION. The pseudo-requests (spec/30_encoding.md R128): each is the requests it expands to, with the words of
each expanded request in the latches. -/

namespace Sys2Proof.Machine

/-- DRAW_ITER: one WRITE_PIXEL for each pair, in sequence order (R128, R184). -/
def execDrawIter (pixels : List Pixel) (s : State) : Out :=
  match pixels with
  | [] => .next s
  | p :: rest =>
    match (s.latch (reqWritePixel p.x p.y p.r p.g p.b)).writePixel p.x p.y p.r p.g p.b with
    | .next t => execDrawIter rest t
    | .fault f => .fault f
    | .refused r => .refused r

/-- FULL_WINDOW: `SET_WINDOW 0, 0, W-1, H-1` (R128). -/
def execFullWindow (s : State) : Out :=
  (s.latch (reqSetWindow (fullWindow s.c).xs (fullWindow s.c).ys (fullWindow s.c).xe (fullWindow s.c).ye)).setWindow
    (fullWindow s.c)

end Sys2Proof.Machine
end

