-- ==== Sys2Proof/Machine/Transactions.lean ====
section
/-! DEFINITION. The controller transactions (spec/30_encoding.md R105, R107, R108, R110 to R112): each is performed as
the sequencer's current action (spec/40_protocol.md R141). -/

namespace Sys2Proof.Machine

/-- SLPOUT (R211 step 1, R231). -/
def execSlpout (s : State) : Out := s.emit (txnCommand s.c s.c.cmdSlpout [])

/-- SLPIN (R230). -/
def execSlpin (s : State) : Out := s.emit (txnCommand s.c s.c.cmdSlpin [])

/-- COLMOD: the payload is `PIXFMT(MODE)` (R111). -/
def execColmod (s : State) : Out := s.emit (txnCommand s.c s.c.cmdColmod [s.c.pixfmt s.c.mode])

/-- TEOFF: a bare command (R211 step 4). -/
def execTeoff (s : State) : Out := s.emit (txnCommand s.c s.c.cmdTeoff [])

/-- DISPON (R211 step 5, R233). -/
def execDispon (s : State) : Out := s.emit (txnCommand s.c s.c.cmdDispon [])

/-- DISPOFF (R234). -/
def execDispoff (s : State) : Out := s.emit (txnCommand s.c s.c.cmdDispoff [])

/-- BRIGHT: the payload is the level (R112). -/
def execBright (level : Byte) (s : State) : Out := s.emit (txnCommand s.c s.c.cmdBright [level])

/-- MADCTL: the payload is the value (R112). -/
def execMadctl (value : Byte) (s : State) : Out := s.emit (txnCommand s.c s.c.cmdMadctl [value])

/-- CASET: the window's columns (R110). -/
def execCaset (xs xe : Half) (s : State) : Out := s.emit (txnCommand s.c s.c.cmdCaset (windowPayload xs xe))

/-- RASET: the window's rows (R110). -/
def execRaset (ys ye : Half) (s : State) : Out := s.emit (txnCommand s.c s.c.cmdRaset (windowPayload ys ye))

/-- RAMWR: the first chunk of a burst (R150, R151). -/
def execRamwr (payload : Bytes) (s : State) : Out := s.emit (txnPixels s.c s.c.cmdRamwr payload)

/-- RAMWRC: a later chunk of a burst (R150, R151). -/
def execRamwrc (payload : Bytes) (s : State) : Out := s.emit (txnPixels s.c s.c.cmdRamwrc payload)

/-- MFR_ENTRY: one entry of MFR_INIT, exactly as configured (R108). -/
def execMfrEntry (cmd : Byte) (data : Bytes) (s : State) : Out := s.emit (txnCommand s.c cmd data)

end Sys2Proof.Machine
end

