-- ==== Sys2Proof/Machine/Dispatch.lean ====
section
/-! DEFINITION. The meaning of every instruction, one arm per constructor. -/

namespace Sys2Proof.Machine

def exec (i : Instr) (s : State) : Host.Outcome State Fault Refusal :=
  match i with
  | .construct => Sys2Proof.Machine.execConstruct s
  | .reset => Sys2Proof.Machine.execReset s
  | .init => Sys2Proof.Machine.execInit s
  | .writePixel x y r g b => Sys2Proof.Machine.execWritePixel x y r g b s
  | .getSize => Sys2Proof.Machine.execGetSize s
  | .fbSize m => Sys2Proof.Machine.execFbSize m s
  | .flushFull => Sys2Proof.Machine.execFlushFull s
  | .flushPartial xs xe ys ye mode => Sys2Proof.Machine.execFlushPartial xs xe ys ye mode s
  | .sleepIn => Sys2Proof.Machine.execSleepIn s
  | .sleepOut => Sys2Proof.Machine.execSleepOut s
  | .displayOn => Sys2Proof.Machine.execDisplayOn s
  | .displayOff => Sys2Proof.Machine.execDisplayOff s
  | .setMadctl value => Sys2Proof.Machine.execSetMadctl value s
  | .setBrightness level => Sys2Proof.Machine.execSetBrightness level s
  | .setWindow xs ys xe ye => Sys2Proof.Machine.execSetWindow xs ys xe ye s
  | .drawIter pixels => Sys2Proof.Machine.execDrawIter pixels s
  | .fullWindow => Sys2Proof.Machine.execFullWindow s
  | .slpout => Sys2Proof.Machine.execSlpout s
  | .slpin => Sys2Proof.Machine.execSlpin s
  | .colmod => Sys2Proof.Machine.execColmod s
  | .teoff => Sys2Proof.Machine.execTeoff s
  | .dispon => Sys2Proof.Machine.execDispon s
  | .dispoff => Sys2Proof.Machine.execDispoff s
  | .bright level => Sys2Proof.Machine.execBright level s
  | .madctl value => Sys2Proof.Machine.execMadctl value s
  | .caset xs xe => Sys2Proof.Machine.execCaset xs xe s
  | .raset ys ye => Sys2Proof.Machine.execRaset ys ye s
  | .ramwr payload => Sys2Proof.Machine.execRamwr payload s
  | .ramwrc payload => Sys2Proof.Machine.execRamwrc payload s
  | .mfrEntry cmd data => Sys2Proof.Machine.execMfrEntry cmd data s

end Sys2Proof.Machine
end

