-- ==== Sys2Proof/Machine/Fetch.lean ====
section
/-! DEFINITION. What a step does next: the sequencer's current action while a request is in progress, otherwise the
host's next request (spec/20_memory.md R82, spec/40_protocol.md R165, spec/60_exceptions.md R297). -/

namespace Sys2Proof.Machine

/-- What a step finds to do: an instruction to run in a state, or an outcome it already has. -/
inductive Fetched where
  | run (i : Instr) (s : State)
  | done (o : Out)

/-- The state with the host's first request taken: its words in the latches, the others still to come. -/
def State.take (s : State) (q : Req) (rest : List Req) : State :=
  { s.latch q with env := { s.env with host := rest } }

/-- While a request is in progress: its next action. A transaction is run as its row of the opcode table; the other
actions belong to no row. At the end of the list the request completes (R36, R165). -/
def fetchAction (s : State) : Fetched :=
  match s.current with
  | some (.tx t) =>
    match decodeTxn s.c t with
    | some i => .run i s
    | none => .done (.refused .neverEmitted)
  | some (.rst l) => .done (.next (s.performRst l))
  | some (.dly ms) => .done (.next (s.performDly ms))
  | some (.fbw off v) => .done (s.performFbw off v)
  | none => .done (.next (s.finish (.ok 0 0)))

/-- While none is: the host's next request. When the host issues none, the block waits unchanged. -/
def fetchRequest (s : State) : Fetched :=
  match s.env.host with
  | [] => .done (.next s)
  | q :: rest =>
    match decodeReq q with
    | .ok i => .run i (s.take q rest)
    | .error e => .done (.refused (.badRequest e))

/-- What a step finds to do. While `BUSY = 1` the host has no move (R297). -/
def fetch (s : State) : Fetched := if s.busy then fetchAction s else fetchRequest s

/-- The lifecycle state a request needs before the host can issue it: CONSTRUCT needs that no driver exists, every
other opcode that a construction has completed (R121, R333). -/
def State.admitting (s : State) (op : Byte) : State :=
  if admitted op s.phase then s
  else if op = opConstruct then { s with phase := .powerOn, fb := none }
  else { s with phase := .ready, fb := some s.freshFb }

/-- The state with a request as the host's next, and the block free to take it. -/
def State.placeRequest (s : State) (q : Req) : State :=
  { s.admitting q.op with busy := false, env := { s.env with host := q :: s.env.host } }

/-- The state with a transaction as the sequencer's current and only action. -/
def State.placeTxn (s : State) (t : Txn) : State :=
  { s with busy := true, seq := { s.seq with list := [.tx t], k := 0 } }

/-- An instruction of the opcode table placed where the next step finds it. -/
def State.place (s : State) (nbits w : Nat) : State :=
  if isTxnWidth nbits then s.placeTxn (txnOfTableWord s.c w) else s.placeRequest (reqOfNat w)

end Sys2Proof.Machine
end

