-- ==== Sys2Proof/Machine/Step.lean ====
section
/-! DEFINITION. One step of CPFSM: one request accepted, with the internal actions it has, or one action of the request
in progress (spec/40_protocol.md R165). -/

namespace Sys2Proof.Machine

/-- One step. -/
def step (s : State) : Host.Outcome State Fault Refusal :=
  match fetch s with
  | .run i t => exec i t
  | .done o => o

/-- The state with an instruction of the opcode table, numbered as the table numbers it, where `step` finds its next:
a request as the host's next, in a lifecycle state that admits it, or a transaction as the current action. -/
def State.withFetchWord (s : State) (nbits w : Nat) : State := s.place nbits w

end Sys2Proof.Machine
end

