-- ==== Sys2Proof/Safety.lean ====
section
/-! DEFINITION. The terms claims are stated in: the invariant of the states a run reaches, the transactions CPFSM may
emit, the events of actions answered with `Ok`, the operand words a request reads, and the environment's contract of
where the controller stores a burst (spec/20_memory.md R84). -/

namespace Sys2Proof

/-- How many of the operand words `A`, `B`, `C`, `D` a request reads: always the first ones (spec/30_encoding.md R122). -/
def Instr.operandWords : Instr → Nat
  | .writePixel _ _ _ _ _ => 3
  | .flushPartial _ _ _ _ _ => 4
  | .setMadctl _ => 1
  | .setBrightness _ => 1
  | .setWindow _ _ _ _ => 4
  | .construct => 0
  | .reset => 0
  | .init => 0
  | .getSize => 0
  | .fbSize _ => 0
  | .flushFull => 0
  | .sleepIn => 0
  | .sleepOut => 0
  | .displayOn => 0
  | .displayOff => 0
  | .drawIter _ => 0
  | .fullWindow => 0
  | .slpout => 0
  | .slpin => 0
  | .colmod => 0
  | .teoff => 0
  | .dispon => 0
  | .dispoff => 0
  | .bright _ => 0
  | .madctl _ => 0
  | .caset _ _ => 0
  | .raset _ _ => 0
  | .ramwr _ => 0
  | .ramwrc _ => 0
  | .mfrEntry _ _ => 0

/-- The command bytes are distinct where two rows have payloads of one shape, and no manufacturer entry is another
row's transaction: then a transaction names its row (spec/30_encoding.md R106). -/
def Cfg.Distinct (c : Cfg) : Prop :=
  [c.cmdSlpout, c.cmdSlpin, c.cmdTeoff, c.cmdDispon, c.cmdDispoff].Nodup ∧
  [c.cmdBright, c.cmdMadctl, c.cmdColmod].Nodup ∧
  c.cmdCaset ≠ c.cmdRaset ∧
  c.cmdRamwr ≠ c.cmdRamwrc ∧
  ∀ e ∈ c.mfrInit, e.1 ∉ [c.cmdSlpout, c.cmdSlpin, c.cmdTeoff, c.cmdDispon, c.cmdDispoff, c.cmdBright, c.cmdMadctl,
    c.cmdColmod, c.cmdCaset, c.cmdRaset]

end Sys2Proof

namespace Sys2Proof.Machine

/-- The action may stand in the list of a request with opcode `op` on a block configured as `c`: a transaction that is
a row of the opcode table, a level of the reset line for CONSTRUCT and RESET only (R161), a delay; never an internal
write, which no action waits for. -/
def allowed (c : Cfg) (op : Option Byte) : Action → Prop
  | .tx t => (decodeTxn c t).isSome = true
  | .rst _ => op = some opConstruct ∨ op = some opReset
  | .dly _ => True
  | .fbw _ _ => False

/-- The requests that send a window (R46). -/
def sendsWindow (op : Option Byte) : Prop :=
  op = some opSetWindow ∨ op = some opFlushFull ∨ op = some opFlushPartial

/-- `PHASE` while a construction is at its action `k` (R32, R210). -/
def constructPhase (k : Nat) : Phase := if k = 0 then .constructing else if k ≤ 3 then .reset else .initializing

/-- The framebuffer's contents are in canonical form, and no offset at or past `FBLEN` holds anything (R42). -/
def State.FbCanonical (s : State) : Prop :=
  ∀ m, s.fb = some m → Memory.wf m = true ∧ ∀ a, s.c.fblen ≤ a → Memory.read m a = 0

/-- The framebuffer is absent exactly in `POWERON` and `FAILED` (R42; for `FAILED` over R300, DESIGN CHOICE,
notes/assumptions 25). -/
def State.FbPresence (s : State) : Prop := s.fb = none ↔ s.phase = .powerOn ∨ s.phase = .failed

/-- With no request in progress, `PHASE` is none of a construction's (R33). -/
def State.IdlePhase (s : State) : Prop := s.busy = false → inConstruction s.phase = false

/-- With a request in progress, the sequencer is at an action of a list that its request may have (R36). -/
def State.SeqValid (s : State) : Prop :=
  s.busy = true → s.seq.k < s.seq.list.length ∧ ∀ a ∈ s.seq.list, allowed s.c s.seq.op a

/-- With a request in progress, either it is a CONSTRUCT, its list is the construction's and `PHASE` follows the index
(R210), or it is another request and `PHASE` is `READY` (R32). -/
def State.PhaseFollows (s : State) : Prop :=
  s.busy = true →
    (s.seq.op = some opConstruct ∧ s.seq.list = constructActions s.c ∧ s.phase = constructPhase s.seq.k) ∨
    (s.seq.op ≠ some opConstruct ∧ s.phase = .ready)

/-- With a request in progress, the sequencer's window is the one its first two actions send, and there is one exactly
for the requests that send a window (R17, R46). -/
def State.WindowSent (s : State) : Prop :=
  s.busy = true →
    (s.seq.window = none ∧ ¬ sendsWindow s.seq.op) ∨
    (sendsWindow s.seq.op ∧ ∃ r rest, s.seq.window = some r ∧ s.seq.list = windowActions s.c r ++ rest)

/-- What holds of every state a run reaches. -/
def State.Inv (s : State) : Prop :=
  s.FbCanonical ∧ s.FbPresence ∧ s.IdlePhase ∧ s.SeqValid ∧ s.PhaseFollows ∧ s.WindowSent

/-- The trace entry of an external action answered with `Ok`; an internal write has none (R47). -/
def okEvent : Action → Option Event
  | .tx t => some (.tx t .ok)
  | .rst l => some (.rst l .ok)
  | .dly ms => some (.dly ms)
  | .fbw _ _ => none

/-- How many transactions a list holds. -/
def txCount (list : List Action) : Nat := list.countP fun a => match a with | .tx _ => true | _ => false

/-- How many reset-line actions a list holds. -/
def rstCount (list : List Action) : Nat := list.countP fun a => match a with | .rst _ => true | _ => false

/-- The environment answers `Ok` to the next `n` transactions and the next `k` reset-line actions, and then goes on
with the answers of `e`. -/
def okThen (n k : Nat) (e : Env) : Env :=
  { e with txAnswers := List.replicate n .ok ++ e.txAnswers, rstAnswers := List.replicate k .ok ++ e.rstAnswers }

/-- The environment's contract: the column and the row at which the controller stores pixel `j` of a burst in a window
(R84). It is an assumption about the controller, not a rule of CPFSM. -/
def controllerCell (r : Rect) (j : Nat) : Nat × Nat :=
  (r.xs.toNat + j % (r.xe.toNat + 1 - r.xs.toNat), r.ys.toNat + j / (r.xe.toNat + 1 - r.xs.toNat))

/-- The payloads of the pixel transactions of a list, in list order. -/
def pixelPayloads (list : List Action) : List Bytes :=
  list.filterMap fun a => match a with | .tx t => if t.dm = .quad then some t.payload else none | _ => none

end Sys2Proof.Machine
end

