-- ==== Sys2Proof/Certificates/Slice0/Obligations.lean ====
section
/-! DEFINITION. The statements for the provers. Each docstring names the rule of spec/ it formalises. A statement about
a next state quantifies over every state that meets its premises, reached by a run or not. -/

open Sys2Proof Sys2Proof.Machine

/-! ### Power-on, configuration and the machine as a whole -/

/-- R49: the state at power-on, for every configuration a block can be instantiated with. The latches and `RES` are
unspecified there, so nothing is stated of them. -/
def Obligations.PowerOnState : Prop :=
  State.reset = State.powerOn Config.cfg ∧
  ∀ cfg : ValidCfg,
    (State.powerOn cfg).phase = .powerOn ∧ (State.powerOn cfg).busy = false ∧
    (State.powerOn cfg).seq.op = none ∧ (State.powerOn cfg).seq.list = [] ∧ (State.powerOn cfg).seq.k = 0 ∧
    (State.powerOn cfg).fb = none ∧ (State.powerOn cfg).gwin = .unknown ∧ (State.powerOn cfg).trace = [] ∧
    (State.powerOn cfg).cfg = cfg

/-- R9: a block is instantiated exactly when its configuration passes every check of the rule, and then with that
configuration; otherwise no state of it exists. -/
def Obligations.OnlyWellFormedConfigurationsInstantiate : Prop :=
  ∀ c : Cfg,
    ((1 ≤ c.w.toNat ∧ 1 ≤ c.h.toNat ∧ 1 ≤ c.maxChunk ∧ c.w.toNat * c.h.toNat * c.mode.bpp ≤ c.fbMax ∧
        1 ≤ c.tInitSlpout ∧ 1 ≤ c.tInitDispon) →
      ∃ s, State.instantiate c = some s ∧ s.c = c ∧ s.phase = .powerOn) ∧
    (¬ (1 ≤ c.w.toNat ∧ 1 ≤ c.h.toNat ∧ 1 ≤ c.maxChunk ∧ c.w.toNat * c.h.toNat * c.mode.bpp ≤ c.fbMax ∧
        1 ≤ c.tInitSlpout ∧ 1 ≤ c.tInitDispon) →
      State.instantiate c = none)

/-- The invariant holds at reset. -/
def Obligations.InvariantAtReset : Prop := State.reset.Inv

/-- Every step keeps the invariant: the framebuffer's contents stay canonical and within `FBLEN` and are absent exactly
in POWERON and FAILED (R42, over R300 after a failed CONSTRUCT: the model's choice, notes/assumptions 25), no
construction phase outlives its request (R33), the sequencer stays inside a list its
request may have (R36, R161), and `PHASE` follows the construction (R32, R210). -/
def Obligations.StepKeepsInvariant : Prop :=
  ∀ s t : State, s.Inv → step s = .next t → t.Inv

/-- R295: from no state of the invariant does a step reach a fault. -/
def Obligations.StepNeverFaults : Prop :=
  ∀ (s : State) (f : Fault), s.Inv → step s ≠ .fault f

/-- While a request is in progress the machine always goes on, whatever the collaborators answer: a step is refused only
when it would accept a request. -/
def Obligations.BusyStepAlwaysGoesOn : Prop :=
  ∀ s : State, s.Inv → s.busy = true → ∃ t, step s = .next t

/-- R7: the configuration does not change at run time, whatever the state. -/
def Obligations.ConfigurationNeverChanges : Prop :=
  ∀ s t : State, step s = .next t → t.cfg = s.cfg

/-- R32: the changes of `PHASE`, each with its event, and no other. In a construction phase the step is the action at
`seq.k`: the request goes on exactly when the action answers `Ok` and is not the last. -/
def Obligations.PhaseChangesOnlyByTheTable : Prop :=
  ∀ s t : State, s.Inv → step s = .next t →
    (s.phase = .powerOn ∨ s.phase = .failed →
      t.phase = (if t.busy then .constructing else s.phase) ∧ (t.busy = true → t.seq.op = some opConstruct)) ∧
    (s.phase = .constructing → s.seq.k = 0 ∧ t.phase = if t.busy then .reset else .failed) ∧
    (s.phase = .reset →
      t.phase = if t.busy then (if s.current = some (.dly s.c.tRstHigh) ∧ s.seq.k = 3 then .initializing else .reset)
        else .failed) ∧
    (s.phase = .initializing →
      t.phase = if t.busy then .initializing else if t.res.status = .ok then .ready else .failed) ∧
    (s.phase = .ready → t.phase = .ready)

/-- R45: `gwin` is a ghost. A step from a state with another `gwin` has the same outcome but for `gwin`. -/
def Obligations.WindowGhostIsNeverRead : Prop :=
  ∀ (s : State) (g : Gwin),
    (∀ t, step s = .next t → ∃ g', step { s with gwin := g } = .next { t with gwin := g' }) ∧
    (∀ f, step s = .fault f → step { s with gwin := g } = .fault f) ∧
    (∀ r, step s = .refused r → step { s with gwin := g } = .refused r)

/-- R46: `gwin` at the completion of a request, and at no other time. A completing step that keeps `BUSY` at 0 is a
request with no external action, or the block waiting: none of them touches the window. -/
def Obligations.WindowGhostFollowsCompletions : Prop :=
  ∀ s t : State, s.Inv → step s = .next t →
    (t.busy = true → t.gwin = s.gwin) ∧
    (s.busy = false → t.busy = false → t.gwin = s.gwin) ∧
    (s.busy = true → t.busy = false →
      (s.seq.op = some opConstruct ∨ s.seq.op = some opReset ∨ s.seq.op = some opInit → t.gwin = .unknown) ∧
      (t.res.status = .interfaceError → t.gwin = .unknown) ∧
      (t.res.status = .ok → sendsWindow s.seq.op →
        ∃ r rest, t.gwin = .rect r ∧ s.seq.list = windowActions s.c r ++ rest) ∧
      (t.res.status = .ok →
        ¬ (s.seq.op = some opConstruct ∨ s.seq.op = some opReset ∨ s.seq.op = some opInit ∨ sendsWindow s.seq.op) →
        t.gwin = s.gwin))

/-- R47: a step appends one entry for the external action it performs, and nothing otherwise. -/
def Obligations.TraceGetsOneEntryPerExternalAction : Prop :=
  ∀ s t : State, step s = .next t →
    match s.current with
    | some (.tx x) => t.trace = s.trace ++ [.tx x s.txResponse]
    | some (.rst l) => t.trace = s.trace ++ [.rst l s.rstResponse]
    | some (.dly ms) => t.trace = s.trace ++ [.dly ms]
    | some (.fbw _ _) => t.trace = s.trace
    | none => t.trace = s.trace

/-- R113: what no transaction of the block is. The two clauses on opcodes are about configurations whose two opcodes
differ, without which neither clause can hold. -/
def Obligations.ReservedTransactionPatternsNeverEmitted : Prop :=
  ∀ (s t : State) (x : Txn) (r : Resp TErr), s.Inv → step s = .next t → t.trace = s.trace ++ [.tx x r] →
    x.addr.extractLsb' 16 8 = 0 ∧ x.addr.extractLsb' 0 8 = 0 ∧ x.len = 0 ∧
    (x.dm = .single → x.opc = s.c.ctrlOpcode) ∧ (x.dm = .quad → x.opc = s.c.pixelOpcode) ∧
    (s.c.ctrlOpcode ≠ s.c.pixelOpcode →
      ¬ (x.opc = s.c.pixelOpcode ∧ x.dm = .single) ∧ ¬ (x.opc = s.c.ctrlOpcode ∧ x.dm = .quad)) ∧
    (x.dm = .quad → 1 ≤ x.payload.length ∧ x.payload.length ≤ s.c.maxChunk ∧
      (x.cmd = s.c.cmdRamwr ∨ x.cmd = s.c.cmdRamwrc))

/-- R39: `RES` is written at completion only; a step that leaves a request in progress leaves it alone. -/
def Obligations.ResultIsWrittenOnlyAtCompletion : Prop :=
  ∀ s t : State, step s = .next t → t.busy = true → t.res = s.res

/-- R43: in `READY`, the framebuffer changes in no step but one that accepts a WRITE_PIXEL of the host. -/
def Obligations.OnlyWritePixelChangesTheFramebuffer : Prop :=
  ∀ s t : State, s.Inv → s.phase = .ready → step s = .next t → t.fb ≠ s.fb →
    s.busy = false ∧ ∃ q rest x y r g b, s.env.host = q :: rest ∧ decodeReq q = .ok (.writePixel x y r g b)

/-- R161, R292: a request that completes with ResetError is a CONSTRUCT or a RESET at a level of the reset line that
answered `Err(e)`, and carries that `e`; no other request has such an action, and none completes so at once. -/
def Obligations.ResetErrorOnlyFromConstructAndReset : Prop :=
  ∀ s t : State, s.Inv → step s = .next t →
    (∀ l, s.current = some (.rst l) → s.seq.op = some opConstruct ∨ s.seq.op = some opReset) ∧
    (s.busy = true → t.busy = false → t.res.status = .resetError →
      (s.seq.op = some opConstruct ∨ s.seq.op = some opReset) ∧
      ∃ l e, s.current = some (.rst l) ∧ s.rstResponse = .err e ∧ t.res = ⟨.resetError, .resetLine e, 0, 0⟩) ∧
    (s.busy = false → t.res.status = .resetError → t.res = s.res)

/-- R215: after a CONSTRUCT that failed, `PHASE` is FAILED, the framebuffer is absent, every request but CONSTRUCT is
refused, and a new CONSTRUCT is admitted. That the framebuffer is absent follows R42, R210 and R215 over R300, by which
no error changes it: the model's choice, notes/assumptions 25. -/
def Obligations.FailedConstructionLeavesNoDriver : Prop :=
  ∀ s t : State, s.Inv → step s = .next t → s.busy = true → s.seq.op = some opConstruct →
    t.busy = false → t.res.status ≠ .ok →
    t.phase = .failed ∧ t.fb = none ∧
    (∀ i q, encodeReq i = some q → i ≠ .construct → exec i t = .refused (.notAdmitted .failed)) ∧
    ∃ u, exec .construct t = .next u ∧ u.phase = .constructing

/-! ### Decoding and fetching -/

/-- R122, R123, R129: the decoder reads an instruction from exactly the words that its encoding gives, up to the operand
words the instruction does not use, which are not examined. -/
def Obligations.DecoderAcceptsExactlyTheEncodings : Prop :=
  ∀ (q : Req) (i : Instr),
    decodeReq q = .ok i ↔
      ∃ p, encodeReq i = some p ∧ q.h = p.h ∧ (1 ≤ i.operandWords → q.a = p.a) ∧ (2 ≤ i.operandWords → q.b = p.b) ∧
        (3 ≤ i.operandWords → q.c = p.c) ∧ (4 ≤ i.operandWords → q.d = p.d)

/-- A few words written out from R120 to R126 decode to the requests they stand for. -/
def Obligations.WrittenOutWordsDecode : Prop :=
  decodeReq ⟨0x00000001, 0xFFFFFFFF, 0x12345678, 0, 0⟩ = .ok .construct ∧
  decodeReq ⟨0x00000010, 0xFFFFFFFD, 7, 0x00FF8000, 0⟩ = .ok (.writePixel (-3) 7 0xFF 0x80 0x00) ∧
  decodeReq ⟨0x00000312, 0, 0, 0, 0⟩ = .ok (.fbSize .gray8) ∧
  decodeReq ⟨0x00000121, 10, 19, 5, 6⟩ = .ok (.flushPartial 10 19 5 6 .rgb888) ∧
  decodeReq ⟨0x00000034, 0x60, 0, 0, 0⟩ = .ok (.setMadctl 0x60) ∧
  decodeReq ⟨0x00000036, 0, 1, 449, 599⟩ = .ok (.setWindow 0 1 449 599)

/-- R124: a request whose `OP` is not in the table of R121 is refused. -/
def Obligations.UnassignedOpcodesRefused : Prop :=
  ∀ (s : State) (q : Req) (rest : List Req), s.busy = false → s.env.host = q :: rest →
    q.op ∉ [0x01#8, 0x02#8, 0x03#8, 0x10#8, 0x11#8, 0x12#8, 0x20#8, 0x21#8, 0x30#8, 0x31#8, 0x32#8, 0x33#8, 0x34#8,
      0x35#8, 0x36#8] →
    ∃ e, step s = .refused (.badRequest e)

/-- R123: a request with a reserved header bit set, with a mode where it must be 0, or with a reserved bit set in an
operand word it uses is refused. A word it does not use is not examined: any value of it decodes alike. -/
def Obligations.ReservedBitsRefused : Prop :=
  ∀ (s : State) (q : Req) (rest : List Req), s.busy = false → s.env.host = q :: rest →
    (q.h.extractLsb' 10 22 ≠ 0 → ∃ e, step s = .refused (.badRequest e)) ∧
    (q.modeArg ≠ 0 → q.op ≠ opFbSize → q.op ≠ opFlushPartial → ∃ e, step s = .refused (.badRequest e)) ∧
    (q.op = opWritePixel → q.c.extractLsb' 24 8 ≠ 0 → ∃ e, step s = .refused (.badRequest e)) ∧
    (q.op = opSetMadctl ∨ q.op = opSetBrightness → q.a.extractLsb' 8 24 ≠ 0 →
      ∃ e, step s = .refused (.badRequest e)) ∧
    (q.op = opFlushPartial ∨ q.op = opSetWindow →
      q.a.extractLsb' 16 16 ≠ 0 ∨ q.b.extractLsb' 16 16 ≠ 0 ∨ q.c.extractLsb' 16 16 ≠ 0 ∨ q.d.extractLsb' 16 16 ≠ 0 →
      ∃ e, step s = .refused (.badRequest e)) ∧
    (∀ (i : Instr) (p : Req), decodeReq q = .ok i → p.h = q.h → (1 ≤ i.operandWords → p.a = q.a) →
      (2 ≤ i.operandWords → p.b = q.b) → (3 ≤ i.operandWords → p.c = q.c) → (4 ≤ i.operandWords → p.d = q.d) →
      decodeReq p = .ok i)

/-- R121, R125: a request whose opcode the current `PHASE` does not admit is refused. FULL_WINDOW is SET_WINDOW (R128). -/
def Obligations.PhaseAdmission : Prop :=
  ∀ (s : State) (i : Instr), s.busy = false → (∃ q, encodeReq i = some q) ∨ i = .fullWindow →
    (i = .construct → s.phase ≠ .powerOn → s.phase ≠ .failed → exec i s = .refused (.notAdmitted s.phase)) ∧
    (i ≠ .construct → s.phase ≠ .ready → exec i s = .refused (.notAdmitted s.phase))

/-- R34, R297: while `BUSY = 1` no request is accepted: the host's requests wait and the latches keep theirs. The last
two clauses are the model's (DEDUCED, notes/assumptions 16): the host has no such move (R297) and the refusals of R296
do not name it, so exec of a request there, which no step reaches, is given the outcome refused `busy`. -/
def Obligations.NoRequestIsAcceptedWhileBusy : Prop :=
  ∀ s : State, s.busy = true →
    (∀ t, step s = .next t → t.env.host = s.env.host ∧ t.req = s.req ∧ t.seq.op = s.seq.op) ∧
    (∀ i, (∃ q, encodeReq i = some q) ∨ i = .fullWindow → exec i s = .refused .busy) ∧
    (∀ p rest, exec (.drawIter (p :: rest)) s = .refused .busy)

/-- A step with no request in progress runs the host's next request: its words go to the latches, and the others stay. -/
def Obligations.StepRunsTheNextRequest : Prop :=
  ∀ (s : State) (q : Req) (rest : List Req) (i : Instr), s.busy = false → s.env.host = q :: rest →
    decodeReq q = .ok i → step s = exec i { s with req := q, env := { s.env with host := rest } }

/-- A step with a transaction as the current action runs its row of the opcode table. -/
def Obligations.StepRunsTheCurrentTransaction : Prop :=
  ∀ (s : State) (x : Txn) (i : Instr), s.current = some (.tx x) → decodeTxn s.c x = some i → step s = exec i s

/-- A step with no request in progress and none from the host changes nothing (the model's choice, notes/assumptions
15). -/
def Obligations.IdleBlockWaits : Prop :=
  ∀ s : State, s.busy = false → s.env.host = [] → step s = .next s

/-- A transaction that decodes to a row is that row's transaction, and the row's operands are well formed: running the
row performs the very transaction in the list, also where command bytes coincide (R106). -/
def Obligations.TransactionDecodingIsExact : Prop :=
  ∀ (c : Cfg) (x : Txn) (i : Instr), decodeTxn c x = some i → encodeTxn c i = some x ∧ i.wf c = true

/-- With distinct command bytes (R106), every well-formed row of the table decodes back from its transaction. -/
def Obligations.TransactionRoundTrip : Prop :=
  ∀ (c : Cfg) (x : Txn) (i : Instr), c.Distinct → i.wf c = true → encodeTxn c i = some x → decodeTxn c x = some i

/-! ### Transactions, the reset line and delays -/

/-- R101 to R105, R107, R110 to R112: each row's transaction, its fields written out, is what the row performs when the
sequencer is at it. -/
def Obligations.RowsEmitTheirTransactions : Prop :=
  ∀ s : State,
    let cmdTxn (cmd : Byte) (data : Bytes) : Txn := ⟨.single, s.c.ctrlOpcode, (0 : Byte) ++ cmd ++ (0 : Byte), 0, data⟩
    let pixTxn (cmd : Byte) (data : Bytes) : Txn := ⟨.quad, s.c.pixelOpcode, (0 : Byte) ++ cmd ++ (0 : Byte), 0, data⟩
    let emits (i : Instr) (x : Txn) : Prop := s.current = some (.tx x) → exec i s = .next (s.performTx x)
    emits .slpout (cmdTxn s.c.cmdSlpout []) ∧ emits .slpin (cmdTxn s.c.cmdSlpin []) ∧
    emits .colmod (cmdTxn s.c.cmdColmod [s.c.pixfmt s.c.mode]) ∧ emits .teoff (cmdTxn s.c.cmdTeoff []) ∧
    emits .dispon (cmdTxn s.c.cmdDispon []) ∧ emits .dispoff (cmdTxn s.c.cmdDispoff []) ∧
    (∀ v, emits (.bright v) (cmdTxn s.c.cmdBright [v]) ∧ emits (.madctl v) (cmdTxn s.c.cmdMadctl [v])) ∧
    (∀ a b : Half,
      emits (.caset a b) (cmdTxn s.c.cmdCaset
        [a.extractLsb' 8 8, a.extractLsb' 0 8, b.extractLsb' 8 8, b.extractLsb' 0 8]) ∧
      emits (.raset a b) (cmdTxn s.c.cmdRaset
        [a.extractLsb' 8 8, a.extractLsb' 0 8, b.extractLsb' 8 8, b.extractLsb' 0 8])) ∧
    (∀ p, emits (.ramwr p) (pixTxn s.c.cmdRamwr p) ∧ emits (.ramwrc p) (pixTxn s.c.cmdRamwrc p)) ∧
    (∀ cmd data, emits (.mfrEntry cmd data) (cmdTxn cmd data))

/-- R141, with the executor's part of R165: a transaction answered `Ok` adds its entry and the sequencer goes on or the
request completes with OK; one answered `Err(e)` adds its entry and ends the request with InterfaceError carrying `e`.
Its frame: configuration, latches, list, the host's requests and the reset line's answers stay, and so does the whole
framebuffer, unless a construction failed: that one loses it (R210 over R300, the model's choice, notes/assumptions 25).
It holds for SLPOUT, SLPIN, COLMOD, TEOFF, DISPON, DISPOFF, BRIGHT, MADCTL,
CASET, RASET, RAMWR, RAMWRC and MFR_ENTRY. -/
def Obligations.TransactionIsPerformed : Prop :=
  ∀ (s : State) (i : Instr) (x : Txn), encodeTxn s.c i = some x → s.current = some (.tx x) →
    ∃ t, exec i s = .next t ∧
      t.cfg = s.cfg ∧ t.req = s.req ∧ t.seq.list = s.seq.list ∧ t.seq.op = s.seq.op ∧ t.seq.window = s.seq.window ∧
      t.env.host = s.env.host ∧ t.env.rstAnswers = s.env.rstAnswers ∧
      t.trace = s.trace ++ [.tx x s.txResponse] ∧
      (s.txResponse = .ok → t.seq.k = s.seq.k + 1 ∧ t.fb = s.fb ∧
        (s.seq.k + 1 < s.seq.list.length → t.busy = true ∧ t.res = s.res ∧ t.gwin = s.gwin) ∧
        (s.seq.list.length ≤ s.seq.k + 1 → t.busy = false ∧ t.res = ⟨.ok, .none, 0, 0⟩)) ∧
      (∀ e, s.txResponse = .err e → t.seq.k = s.seq.k ∧ t.busy = false ∧
        t.res = ⟨.interfaceError, .transport e, 0, 0⟩ ∧ t.gwin = .unknown ∧
        (inConstruction s.phase = true → t.phase = .failed ∧ t.fb = none) ∧
        (inConstruction s.phase = false → t.phase = s.phase ∧ t.fb = s.fb))

/-- R80 and R128 let a row run only as the sequencer's current action, and give no outcome for it at any other time. The
refusal `notCurrent` there is the model's (DEDUCED, notes/assumptions 9). -/
def Obligations.TransactionsNeverRunOutOfTurn : Prop :=
  ∀ (s : State) (i : Instr) (x : Txn), encodeTxn s.c i = some x → s.current ≠ some (.tx x) →
    exec i s = .refused .notCurrent

/-- R160, R292, with the executor's part of R165: a level of the reset line answered `Ok`, and one answered `Err(e)`,
which ends the request with ResetError carrying `e`. That a failed construction loses the framebuffer follows R210 over
R300 (the model's choice, notes/assumptions 25). -/
def Obligations.ResetLineIsDriven : Prop :=
  ∀ (s : State) (l : Level), s.current = some (.rst l) →
    ∃ t, step s = .next t ∧
      t.cfg = s.cfg ∧ t.req = s.req ∧ t.env.host = s.env.host ∧ t.env.txAnswers = s.env.txAnswers ∧
      t.trace = s.trace ++ [.rst l s.rstResponse] ∧
      (s.rstResponse = .ok → t.seq = { s.seq with k := s.seq.k + 1 } ∧ t.fb = s.fb ∧
        (s.seq.k + 1 < s.seq.list.length → t.busy = true ∧ t.res = s.res) ∧
        (s.seq.list.length ≤ s.seq.k + 1 → t.busy = false ∧ t.res = ⟨.ok, .none, 0, 0⟩)) ∧
      (∀ e, s.rstResponse = .err e → t.seq = s.seq ∧ t.busy = false ∧ t.res = ⟨.resetError, .resetLine e, 0, 0⟩ ∧
        (inConstruction s.phase = true → t.phase = .failed ∧ t.fb = none) ∧
        (inConstruction s.phase = false → t.phase = s.phase ∧ t.fb = s.fb))

/-- R163: a delay always completes, with its entry in the trace; no collaborator is asked. -/
def Obligations.DelayAlwaysCompletes : Prop :=
  ∀ (s : State) (ms : Nat), s.current = some (.dly ms) →
    ∃ t, step s = .next t ∧ t.trace = s.trace ++ [.dly ms] ∧ t.env = s.env ∧ t.cfg = s.cfg ∧ t.req = s.req ∧
      t.fb = s.fb ∧ t.seq = { s.seq with k := s.seq.k + 1 } ∧
      (s.seq.k + 1 < s.seq.list.length → t.busy = true ∧ t.res = s.res ∧ t.gwin = s.gwin) ∧
      (s.seq.list.length ≤ s.seq.k + 1 → t.busy = false ∧ t.res = ⟨.ok, .none, 0, 0⟩)

/-! ### Whole requests -/

/-- R36, R165: a request in progress whose remaining actions all answer `Ok` performs them in list order and then
completes with OK. One action a step, and the completion in the step of the last one, are the model's cut of the executor
(DEDUCED, notes/assumptions 1). -/
def Obligations.RequestRunsToCompletion : Prop :=
  ∀ (s : State) (e : Env), s.Inv → s.busy = true →
    s.env = okThen (txCount (s.seq.list.drop s.seq.k)) (rstCount (s.seq.list.drop s.seq.k)) e →
    ∃ t, Host.Core.run core (s.seq.list.length - s.seq.k) s = .next t ∧
      t.busy = false ∧ t.res = ⟨.ok, .none, 0, 0⟩ ∧
      t.trace = s.trace ++ (s.seq.list.drop s.seq.k).filterMap okEvent ∧
      t.phase = .ready ∧ t.fb = s.fb ∧ t.cfg = s.cfg ∧ t.req = s.req ∧ t.env = e ∧
      t.gwin = (if forgetsWindow s.seq.op then .unknown else match s.seq.window with | some r => .rect r | none => s.gwin)

/-- R155, R213, R300: the first transaction to answer `Err(e)` ends the request: every action before it was performed
and answered `Ok`, it is the last entry of the trace, and no action after it is performed. The count of steps is the
model's (DEDUCED, notes/assumptions 1). That a failed CONSTRUCT loses the framebuffer follows R210 over R300 (the model's
choice, notes/assumptions 25); any other request leaves it, as R300 says. -/
def Obligations.RequestStopsAtTheFirstError : Prop :=
  ∀ (s : State) (pre post : List Action) (x : Txn) (err : TErr) (later : List (Resp TErr)) (e : Env), s.Inv →
    s.busy = true → s.seq.list.drop s.seq.k = pre ++ .tx x :: post →
    s.env = okThen (txCount pre) (rstCount pre) { e with txAnswers := .err err :: later } →
    ∃ t, Host.Core.run core (pre.length + 1) s = .next t ∧
      t.busy = false ∧ t.res = ⟨.interfaceError, .transport err, 0, 0⟩ ∧
      t.trace = s.trace ++ pre.filterMap okEvent ++ [.tx x (.err err)] ∧ t.gwin = .unknown ∧
      (s.seq.op = some opConstruct → t.phase = .failed ∧ t.fb = none) ∧
      (s.seq.op ≠ some opConstruct → t.phase = .ready ∧ t.fb = s.fb) ∧
      t.env = { e with txAnswers := later }

/-- R213, R162, R300: the same for the first level of the reset line to answer `Err(e)`. The count of steps (DEDUCED,
notes/assumptions 1) and the lost framebuffer of a failed CONSTRUCT (R210 over R300, notes/assumptions 25) are the
model's. -/
def Obligations.RequestStopsAtTheFirstResetError : Prop :=
  ∀ (s : State) (pre post : List Action) (l : Level) (err : RErr) (later : List (Resp RErr)) (e : Env), s.Inv →
    s.busy = true → s.seq.list.drop s.seq.k = pre ++ .rst l :: post →
    s.env = okThen (txCount pre) (rstCount pre) { e with rstAnswers := .err err :: later } →
    ∃ t, Host.Core.run core (pre.length + 1) s = .next t ∧
      t.busy = false ∧ t.res = ⟨.resetError, .resetLine err, 0, 0⟩ ∧
      t.trace = s.trace ++ pre.filterMap okEvent ++ [.rst l (.err err)] ∧ t.gwin = .unknown ∧
      (s.seq.op = some opConstruct → t.phase = .failed ∧ t.fb = none) ∧
      (s.seq.op ≠ some opConstruct → t.phase = .ready ∧ t.fb = s.fb) ∧
      t.env = { e with rstAnswers := later }

/-- R331: a CONSTRUCT whose collaborators all answer `Ok` ends in READY, idle, with RES (OK, none, 0, 0), the
framebuffer as it was drawn, the window unknown, and `11 + len(MFR_INIT)` new entries in the trace. That it takes one step
for each of them after the acceptance is the model's cut of the executor (DEDUCED, notes/assumptions 1). -/
def Obligations.ConstructReachesReady : Prop :=
  ∀ (s : State) (e : Env), s.busy = false → s.phase = .powerOn ∨ s.phase = .failed →
    s.env = okThen (5 + s.c.mfrInit.length) 2 e →
    ∃ t u, exec .construct s = .next t ∧ Host.Core.run core (11 + s.c.mfrInit.length) t = .next u ∧
      u.phase = .ready ∧ u.busy = false ∧ u.res = ⟨.ok, .none, 0, 0⟩ ∧
      (∃ m, u.fb = some m ∧ ∀ a, a < s.c.fblen → Memory.read m a = Config.fbInit s.env.draws a) ∧
      u.gwin = .unknown ∧ u.trace = s.trace ++ (resetSequence s.c ++ initSeq s.c).filterMap okEvent ∧
      u.trace.length = s.trace.length + 11 + s.c.mfrInit.length

/-! ### Lifecycle and control requests -/

/-- R50, R210, R211: an accepted CONSTRUCT has allocated a framebuffer that holds the free draw FB_INIT, is in
CONSTRUCTING, and its actions are the reset sequence and then INIT_SEQ, written out. -/
def Obligations.ConstructIsAccepted : Prop :=
  ∀ s : State, s.busy = false → s.phase = .powerOn ∨ s.phase = .failed →
    let first : List Action := [.rst .low, .dly s.c.tRstLow, .rst .high, .dly s.c.tRstHigh,
      .tx (txnCommand s.c s.c.cmdSlpout []), .dly s.c.tInitSlpout]
    let entries : List Action := s.c.mfrInit.map fun e => .tx (txnCommand s.c e.1 e.2)
    let last : List Action := [.tx (txnCommand s.c s.c.cmdColmod [s.c.pixfmt s.c.mode]),
      .tx (txnCommand s.c s.c.cmdTeoff []), .tx (txnCommand s.c s.c.cmdDispon []), .dly s.c.tInitDispon,
      .tx (txnCommand s.c s.c.cmdBright [s.c.brightMax])]
    ∃ m, exec .construct s = .next { s with
        fb := some m
        phase := .constructing
        busy := true
        env := { s.env with draws := s.env.draws + 1 }
        seq := { op := some 0x01, list := first ++ entries ++ last, k := 0, window := none } } ∧
      (∀ a, a < s.c.fblen → Memory.read m a = Config.fbInit s.env.draws a) ∧
      (∀ a, s.c.fblen ≤ a → Memory.read m a = 0) ∧ Memory.wf m = true

/-- R162, R211, R220, R222: RESET and INIT accepted in READY; their lists written out, everything else as it was. -/
def Obligations.ResetAndInitAreAccepted : Prop :=
  ∀ s : State, s.busy = false → s.phase = .ready →
    let first : List Action := [.tx (txnCommand s.c s.c.cmdSlpout []), .dly s.c.tInitSlpout]
    let entries : List Action := s.c.mfrInit.map fun e => .tx (txnCommand s.c e.1 e.2)
    let last : List Action := [.tx (txnCommand s.c s.c.cmdColmod [s.c.pixfmt s.c.mode]),
      .tx (txnCommand s.c s.c.cmdTeoff []), .tx (txnCommand s.c s.c.cmdDispon []), .dly s.c.tInitDispon,
      .tx (txnCommand s.c s.c.cmdBright [s.c.brightMax])]
    exec .reset s = .next { s with busy := true, seq := { op := some 0x02, k := 0, window := none, list :=
      [.rst .low, .dly s.c.tRstLow, .rst .high, .dly s.c.tRstHigh] } } ∧
    exec .init s = .next { s with busy := true, seq := { op := some 0x03, list := first ++ entries ++ last, k := 0, window := none } }

/-- R230 to R238: the six control requests that send one command, accepted in READY: the command and, unless it is 0,
its settle delay; everything else as it was. -/
def Obligations.ControlRequestsAreAccepted : Prop :=
  ∀ s : State, s.busy = false → s.phase = .ready →
    let accepted (op : Byte) (cmd : Byte) (data : Bytes) (delay : Nat) : State :=
      { s with busy := true, seq := { op := some op, k := 0, window := none, list :=
        if delay = 0 then [.tx (txnCommand s.c cmd data)] else [.tx (txnCommand s.c cmd data), .dly delay] } }
    exec .sleepIn s = .next (accepted 0x30 s.c.cmdSlpin [] s.c.tOpSlpin) ∧
    exec .sleepOut s = .next (accepted 0x31 s.c.cmdSlpout [] s.c.tOpSlpout) ∧
    exec .displayOn s = .next (accepted 0x32 s.c.cmdDispon [] s.c.tOpDispon) ∧
    exec .displayOff s = .next (accepted 0x33 s.c.cmdDispoff [] s.c.tOpDispoff) ∧
    (∀ v, exec (.setMadctl v) s = .next (accepted 0x34 s.c.cmdMadctl [v] s.c.tOpMadctl)) ∧
    (∀ v, exec (.setBrightness v) s = .next (accepted 0x35 s.c.cmdBright [v] s.c.tOpBright))

/-- R110, R240, R241: SET_WINDOW accepted in READY with any four coordinates, inverted or out of range ones too: CASET,
then RASET, each coordinate high byte first; everything else as it was. FULL_WINDOW (R128) is SET_WINDOW of
`0, 0, W-1, H-1`, with that request's words in the latches. -/
def Obligations.SetWindowIsAccepted : Prop :=
  ∀ s : State, s.busy = false → s.phase = .ready →
    let accepted (q : Req) (xs ys xe ye : Half) : State := { s with req := q, busy := true, seq :=
      { op := some 0x36, k := 0, window := some ⟨xs, ys, xe, ye⟩, list :=
        [.tx (txnCommand s.c s.c.cmdCaset
            [xs.extractLsb' 8 8, xs.extractLsb' 0 8, xe.extractLsb' 8 8, xe.extractLsb' 0 8]),
          .tx (txnCommand s.c s.c.cmdRaset
            [ys.extractLsb' 8 8, ys.extractLsb' 0 8, ye.extractLsb' 8 8, ye.extractLsb' 0 8])] } }
    (∀ xs ys xe ye : Half, exec (.setWindow xs ys xe ye) s = .next (accepted s.req xs ys xe ye)) ∧
    ∃ q, encodeReq (.setWindow 0 0 (s.c.w - 1) (s.c.h - 1)) = some q ∧
      exec .fullWindow s = .next (accepted q 0 0 (s.c.w - 1) (s.c.h - 1))

/-! ### The framebuffer -/

/-- A read after a write: the byte written at its offset, the old byte at every other (R71, R72). -/
def Obligations.FramebufferReadAfterWrite : Prop :=
  ∀ (m : Memory) (off : Nat) (v : Bytes), Memory.wf m = true →
    Memory.wf (Memory.writeBytes m off v) = true ∧
    Memory.readBytes (Memory.writeBytes m off v) off v.length = v ∧
    ∀ a, ¬ (off ≤ a ∧ a < off + v.length) → Memory.read (Memory.writeBytes m off v) a = Memory.read m a

/-- Equal contents are equal data: the canonical form of a framebuffer's contents is unique. -/
def Obligations.FramebufferContentsAreCanonical : Prop :=
  ∀ m m' : Memory, Memory.wf m = true → Memory.wf m' = true → (∀ a, Memory.read m a = Memory.read m' a) → m = m'

/-- R180, R182: WRITE_PIXEL in READY. Inside the panel it sets the `bpp(MODE)` bytes at `(y*W + x)*bpp(MODE)` to the
encoded colour and leaves every other byte; outside it leaves all of them. It completes in the step with OK and changes
nothing else but the sequencer. -/
def Obligations.WritePixelWritesOrClips : Prop :=
  ∀ (s : State) (m : Memory) (x y : Word) (r g b : Byte), s.busy = false → s.phase = .ready → s.fb = some m →
    Memory.wf m = true →
    encodeReq (.writePixel x y r g b) = some ⟨0x00000010, x, y, (0 : Byte) ++ r ++ g ++ b, 0⟩ ∧
    ∃ t m', exec (.writePixel x y r g b) s = .next t ∧ t.fb = some m' ∧
      (0 ≤ x.toInt ∧ x.toInt < s.c.w.toNat ∧ 0 ≤ y.toInt ∧ y.toInt < s.c.h.toNat →
        let off := (y.toInt.toNat * s.c.w.toNat + x.toInt.toNat) * s.c.mode.bpp
        Memory.readBytes m' off s.c.mode.bpp = encodePixel s.c.mode r g b ∧
        ∀ a, ¬ (off ≤ a ∧ a < off + s.c.mode.bpp) → Memory.read m' a = Memory.read m a) ∧
      (¬ (0 ≤ x.toInt ∧ x.toInt < s.c.w.toNat ∧ 0 ≤ y.toInt ∧ y.toInt < s.c.h.toNat) → m' = m) ∧
      t.cfg = s.cfg ∧ t.phase = .ready ∧ t.busy = false ∧ t.req = s.req ∧ t.res = ⟨.ok, .none, 0, 0⟩ ∧
      t.gwin = s.gwin ∧ t.trace = s.trace ∧ t.env = s.env ∧ t.seq.op = some 0x10

/-- R183: the pixel read back is the colour written, through the mode's packing, and a later write to another pixel
leaves it. For RGB888 and RGB666 the bytes are the three channels. -/
def Obligations.PixelRoundTrip : Prop :=
  ∀ (s t u : State) (m : Memory) (x y x' y' : Word) (r g b r' g' b' : Byte),
    s.fb = some m → Memory.wf m = true →
    0 ≤ x.toInt ∧ x.toInt < s.c.w.toNat ∧ 0 ≤ y.toInt ∧ y.toInt < s.c.h.toNat →
    exec (.writePixel x y r g b) s = .next t → exec (.writePixel x' y' r' g' b') t = .next u →
    (x' ≠ x ∨ y' ≠ y) →
    ∃ m', u.fb = some m' ∧
      Memory.readBytes m' ((y.toInt.toNat * s.c.w.toNat + x.toInt.toNat) * s.c.mode.bpp) s.c.mode.bpp =
        encodePixel s.c.mode r g b ∧
      (s.c.mode = .rgb888 ∨ s.c.mode = .rgb666 →
        Memory.readBytes m' ((y.toInt.toNat * s.c.w.toNat + x.toInt.toNat) * s.c.mode.bpp) 3 = [r, g, b])

/-- R182: the encoder gives exactly `bpp(m)` bytes: the channels in the order R, G, B for RGB888 and RGB666, the two
bytes of ENC565 for RGB565, the byte of ENCGRAY for Gray8. -/
def Obligations.EncoderGivesOnePixel : Prop :=
  ∀ (m : ColorMode) (r g b : Byte),
    (encodePixel m r g b).length = m.bpp ∧ encodePixel .rgb888 r g b = [r, g, b] ∧
    encodePixel .rgb666 r g b = [r, g, b] ∧
    encodePixel .rgb565 r g b = [(Config.enc565 r g b).1, (Config.enc565 r g b).2] ∧
    encodePixel .gray8 r g b = [Config.encGray r g b]

/-- R186: GET_SIZE in READY answers with the configured width and height, and changes only RES and the sequencer. -/
def Obligations.GetSizeReportsThePanel : Prop :=
  ∀ s : State, s.busy = false → s.phase = .ready →
    encodeReq .getSize = some ⟨0x00000011, 0, 0, 0, 0⟩ ∧
    exec .getSize s = .next { s with
      res := ⟨.ok, .none, s.c.w.zeroExtend 32, s.c.h.zeroExtend 32⟩
      seq := { op := some 0x11, list := [], k := 0, window := none } }

/-- R188: FB_SIZE in READY answers with `W * H * bpp(m)`, exactly, in two words, for every mode; it changes only RES and
the sequencer. -/
def Obligations.FbSizeReportsTheExactSize : Prop :=
  ∀ (s : State) (m : ColorMode), s.busy = false → s.phase = .ready →
    encodeReq (.fbSize m) = some ⟨(0 : BitVec 22) ++ m.code ++ (0x12 : Byte), 0, 0, 0, 0⟩ ∧
    ∃ v0 v1 : Word, v0.toNat + 2 ^ 32 * v1.toNat = s.c.w.toNat * s.c.h.toNat * m.bpp ∧
      exec (.fbSize m) s = .next { s with
        res := ⟨.ok, .none, v0, v1⟩
        seq := { op := some 0x12, list := [], k := 0, window := none } }

/-- R128, R184: DRAW_ITER is its WRITE_PIXELs: it does what the block does when the host issues their encodings in
sequence order. -/
def Obligations.DrawIterIsItsWritePixels : Prop :=
  ∀ (s : State) (pixels : List Pixel) (rest : List Req), s.busy = false →
    Host.Core.run core pixels.length
        { s with env := { s.env with host := pixels.map (fun p => reqWritePixel p.x p.y p.r p.g p.b) ++ rest } } =
      exec (.drawIter pixels) { s with env := { s.env with host := rest } }

/-- R184: a sequence of pixel writes never fails in READY, emits nothing, and leaves in each byte what the last write
that covers it wrote; no byte outside the pixels of the sequence changes. -/
def Obligations.DrawIterLastWriteWins : Prop :=
  ∀ (s : State) (m : Memory) (pixels : List Pixel), s.busy = false → s.phase = .ready → s.fb = some m →
    Memory.wf m = true →
    ∃ t m', exec (.drawIter pixels) s = .next t ∧ t.fb = some m' ∧ t.busy = false ∧ t.phase = .ready ∧
      t.trace = s.trace ∧ t.gwin = s.gwin ∧ t.cfg = s.cfg ∧ t.env = s.env ∧
      (pixels ≠ [] → t.res = ⟨.ok, .none, 0, 0⟩) ∧
      (∀ a, (∀ p ∈ pixels, ∀ off v, pixelWrite s.c p.x p.y p.r p.g p.b = some (off, v) →
          ¬ (off ≤ a ∧ a < off + v.length)) → Memory.read m' a = Memory.read m a) ∧
      ∀ pre p post off v, pixels = pre ++ p :: post → pixelWrite s.c p.x p.y p.r p.g p.b = some (off, v) →
        ∀ a, off ≤ a → a < off + v.length →
          (∀ q ∈ post, ∀ off' v', pixelWrite s.c q.x q.y q.r q.g q.b = some (off', v') →
            ¬ (off' ≤ a ∧ a < off' + v'.length)) →
          Memory.read m' a = v.getD (a - off) 0

/-! ### Bursts and flushes -/

/-- R150 to R153: how a burst is split. An empty one is no transaction. -/
def Obligations.BurstIsSplitGreedily : Prop :=
  ∀ (c : Cfg) (p : Bytes), 1 ≤ c.maxChunk →
    (p = [] → sendPixels c p = []) ∧
    (1 ≤ p.length →
      let n := (p.length + c.maxChunk - 1) / c.maxChunk
      (sendPixels c p).length = n ∧ 1 ≤ n ∧
      (pixelPayloads (sendPixels c p)).flatten = p ∧
      ∀ i, i < n → ∃ chunk,
        (sendPixels c p)[i]? = some (.tx (txnPixels c (if i = 0 then c.cmdRamwr else c.cmdRamwrc) chunk)) ∧
        chunk.length = (if i + 1 < n then c.maxChunk else p.length - (n - 1) * c.maxChunk) ∧
        1 ≤ chunk.length ∧ chunk.length ≤ c.maxChunk)

/-- R260: FLUSH_FULL in READY sends the window of the whole panel and then the whole framebuffer in offset order;
accepting it changes nothing but the sequencer and `BUSY`. -/
def Obligations.FlushFullSendsTheWholeFramebuffer : Prop :=
  ∀ (s : State) (m : Memory), s.busy = false → s.phase = .ready → s.fb = some m →
    let window : List Action :=
      [.tx (txnCommand s.c s.c.cmdCaset [0, 0, (s.c.w - 1).extractLsb' 8 8, (s.c.w - 1).extractLsb' 0 8]),
        .tx (txnCommand s.c s.c.cmdRaset [0, 0, (s.c.h - 1).extractLsb' 8 8, (s.c.h - 1).extractLsb' 0 8])]
    ∃ p : Bytes, p.length = s.c.w.toNat * s.c.h.toNat * s.c.mode.bpp ∧
      (∀ a, a < p.length → p[a]? = some (Memory.read m a)) ∧
      exec .flushFull s = .next { s with
        busy := true
        seq := { op := some 0x20, list := window ++ sendPixels s.c p, k := 0,
                 window := some ⟨0, 0, s.c.w - 1, s.c.h - 1⟩ } }

/-- R261: the actions of a full flush are `2 + ceil(FBLEN / MAX_CHUNK)` transactions and nothing else. -/
def Obligations.FlushFullTransactionCount : Prop :=
  ∀ (s t : State), exec .flushFull s = .next t →
    t.seq.list.length = 2 + (s.c.fblen + s.c.maxChunk - 1) / s.c.maxChunk ∧ ∀ a ∈ t.seq.list, ∃ x, a = .tx x

/-- R265 to R271, R273: FLUSH_PARTIAL in READY with any operands. If a check fails, InvalidConfiguration at once: no
action, and trace, window and framebuffer unchanged. Otherwise its list is the window and then the rows' bytes, top to
bottom, each row taken at the offset and length of the argument's mode. -/
def Obligations.FlushPartialSendsTheWindow : Prop :=
  ∀ (s : State) (m : Memory) (xs xe ys ye : Half) (mode : ColorMode), s.busy = false → s.phase = .ready →
    s.fb = some m →
    let window : List Action :=
      [.tx (txnCommand s.c s.c.cmdCaset [xs.extractLsb' 8 8, xs.extractLsb' 0 8, xe.extractLsb' 8 8, xe.extractLsb' 0 8]),
        .tx (txnCommand s.c s.c.cmdRaset [ys.extractLsb' 8 8, ys.extractLsb' 0 8, ye.extractLsb' 8 8, ye.extractLsb' 0 8])]
    let off (y : Nat) : Nat := (y * s.c.w.toNat + xs.toNat) * mode.bpp
    let rowLen : Nat := (xe.toNat + 1 - xs.toNat) * mode.bpp
    let ok : Prop := xs.toNat ≤ xe.toNat ∧ ys.toNat ≤ ye.toNat ∧ xe.toNat ≤ s.c.maxColIndex.toNat ∧
      ye.toNat + 1 ≤ s.c.h.toNat ∧ ∀ y, ys.toNat ≤ y → y ≤ ye.toNat → off y + rowLen ≤ s.c.fblen
    (¬ ok → exec (.flushPartial xs xe ys ye mode) s = .next { s with
      res := ⟨.invalidConfiguration, .none, 0, 0⟩, seq := { s.seq with op := some 0x21 } }) ∧
    (ok → ∃ p : Bytes, p.length = (ye.toNat + 1 - ys.toNat) * rowLen ∧
      (∀ k j, k < ye.toNat + 1 - ys.toNat → j < rowLen →
        p[k * rowLen + j]? = some (Memory.read m (off (ys.toNat + k) + j))) ∧
      exec (.flushPartial xs xe ys ye mode) s = .next { s with
        busy := true
        seq := { op := some 0x21, list := window ++ sendPixels s.c p, k := 0, window := some ⟨xs, ys, xe, ye⟩ } })

/-- R274: with `mode = MODE`, FLUSH_PARTIAL raises InvalidConfiguration exactly when one of V1 to V4 fails or
`ye*W + xe + 1 > W*H`. -/
def Obligations.FlushPartialRejectionSet : Prop :=
  ∀ (s t : State) (xs xe ys ye : Half), exec (.flushPartial xs xe ys ye s.c.mode) s = .next t →
    ((t.busy = false ∧ t.res.status = .invalidConfiguration) ↔
      (¬ xs.toNat ≤ xe.toNat ∨ ¬ ys.toNat ≤ ye.toNat ∨ ¬ xe.toNat ≤ s.c.maxColIndex.toNat ∨
        ¬ ye.toNat + 1 ≤ s.c.h.toNat ∨ s.c.w.toNat * s.c.h.toNat < ye.toNat * s.c.w.toNat + xe.toNat + 1))

/-- R84, R276: a partial flush inside the panel with `mode = MODE` sends, as pixel `j` of its burst, the bytes of the
framebuffer's pixel at the very cell where the controller's contract stores pixel `j`; so does a full flush. -/
def Obligations.FlushedPixelsLandOnTheirOwnCells : Prop :=
  ∀ (s t : State) (m : Memory) (i : Instr) (r : Rect), s.fb = some m → exec i s = .next t → t.busy = true →
    (i = .flushFull ∧ r = ⟨0, 0, s.c.w - 1, s.c.h - 1⟩ ∨
      i = .flushPartial r.xs r.xe r.ys r.ye s.c.mode ∧ r.xe.toNat + 1 ≤ s.c.w.toNat) →
    ∀ j, j < (r.xe.toNat + 1 - r.xs.toNat) * (r.ye.toNat + 1 - r.ys.toNat) →
      (((pixelPayloads t.seq.list).flatten.drop (j * s.c.mode.bpp)).take s.c.mode.bpp) =
        Memory.readBytes m
          (((controllerCell r j).2 * s.c.w.toNat + (controllerCell r j).1) * s.c.mode.bpp) s.c.mode.bpp

/-- R349: what a flush sends depends on nothing but the configuration and the framebuffer: a window set before it, the
trace, the result and the latches make no difference. -/
def Obligations.FlushIgnoresEarlierWindows : Prop :=
  ∀ (s s' t t' : State) (i : Instr), (i = .flushFull ∨ ∃ xs xe ys ye mode, i = .flushPartial xs xe ys ye mode) →
    s.cfg = s'.cfg → s.fb = s'.fb → exec i s = .next t → exec i s' = .next t' → t.busy = true →
    t'.busy = true ∧ t'.seq = t.seq
end

