-- ==== Sys2Proof/Laws/Decode.lean ====
section
/-! SUPPORT. The bit-field facts of the encodings, and the decoder of transactions on the forms the block emits. -/

namespace Sys2Proof

/-! ### Bit fields -/

/-- The value of two joined bit fields. -/
theorem append_toNat {n k : Nat} (x : BitVec n) (y : BitVec k) : (x ++ y).toNat = x.toNat * 2 ^ k + y.toNat := by
  rw [BitVec.toNat_append, ← Nat.shiftLeft_add_eq_or_of_lt y.isLt, Nat.shiftLeft_eq]

theorem zero_toNat {n : Nat} : (0 : BitVec n).toNat = 0 := by simp

/-- A 24-bit value is its three bytes. -/
theorem addr_bytes (a : Addr) : a.extractLsb' 16 8 ++ a.extractLsb' 8 8 ++ a.extractLsb' 0 8 = a := by
  apply BitVec.eq_of_toNat_eq
  have := a.isLt
  simp only [append_toNat, BitVec.extractLsb'_toNat, Nat.shiftRight_eq_div_pow]
  omega

/-- A 16-bit value is its two bytes, the high one first. -/
theorem half_bytes (v : Half) : v.extractLsb' 8 8 ++ v.extractLsb' 0 8 = v := by
  apply BitVec.eq_of_toNat_eq
  have := v.isLt
  simp only [append_toNat, BitVec.extractLsb'_toNat, Nat.shiftRight_eq_div_pow]
  omega

/-- The high byte of two joined bytes. -/
theorem extract_high (p q : Byte) : (p ++ q).extractLsb' 8 8 = p := by
  apply BitVec.eq_of_toNat_eq
  have := p.isLt
  have := q.isLt
  simp only [append_toNat, BitVec.extractLsb'_toNat, Nat.shiftRight_eq_div_pow]
  omega

/-- The low byte of two joined bytes. -/
theorem extract_low (p q : Byte) : (p ++ q).extractLsb' 0 8 = q := by
  apply BitVec.eq_of_toNat_eq
  have := p.isLt
  have := q.isLt
  simp only [append_toNat, BitVec.extractLsb'_toNat, Nat.shiftRight_eq_div_pow]
  omega

theorem be16_append (p q : Byte) : be16 (p ++ q) = [p, q] := by
  rw [be16, extract_high, extract_low]

/-- The address of a command byte, as the three bytes of R102. -/
theorem txnAddr_bytes : ∀ cmd : Byte, txnAddr cmd = (0 : Byte) ++ cmd ++ (0 : Byte) := by decide

/-- An address whose outer bytes are 0 is the address of its middle byte. -/
theorem txnAddr_of_fields {a : Addr} (h1 : a.extractLsb' 16 8 = 0) (h2 : a.extractLsb' 0 8 = 0) :
    txnAddr (a.extractLsb' 8 8) = a := by
  have h := addr_bytes a
  rw [h1, h2] at h
  rw [txnAddr_bytes, h]

theorem txnAddr_high : ∀ cmd : Byte, (txnAddr cmd).extractLsb' 16 8 = 0 := by decide
theorem txnAddr_cmd : ∀ cmd : Byte, (txnAddr cmd).extractLsb' 8 8 = cmd := by decide
theorem txnAddr_low : ∀ cmd : Byte, (txnAddr cmd).extractLsb' 0 8 = 0 := by decide

/-- A header word is its three fields. -/
theorem word_fields (h : Word) : h.extractLsb' 10 22 ++ h.extractLsb' 8 2 ++ h.extractLsb' 0 8 = h := by
  apply BitVec.eq_of_toNat_eq
  have := h.isLt
  simp only [append_toNat, BitVec.extractLsb'_toNat, Nat.shiftRight_eq_div_pow]
  omega

theorem reqHeader_toNat (op : Byte) (m : BitVec 2) : (reqHeader op m).toNat = m.toNat * 256 + op.toNat := by
  have := op.isLt
  have := m.isLt
  simp only [reqHeader, append_toNat, zero_toNat]
  omega

theorem reqHeader_op (op : Byte) (m : BitVec 2) : (reqHeader op m).extractLsb' 0 8 = op := by
  apply BitVec.eq_of_toNat_eq
  have := op.isLt
  rw [BitVec.extractLsb'_toNat, reqHeader_toNat, Nat.shiftRight_eq_div_pow]
  omega

theorem reqHeader_modeArg (op : Byte) (m : BitVec 2) : (reqHeader op m).extractLsb' 8 2 = m := by
  apply BitVec.eq_of_toNat_eq
  have := op.isLt
  have := m.isLt
  rw [BitVec.extractLsb'_toNat, reqHeader_toNat, Nat.shiftRight_eq_div_pow]
  omega

theorem reqHeader_reserved (op : Byte) (m : BitVec 2) : (reqHeader op m).extractLsb' 10 22 = 0 := by
  apply BitVec.eq_of_toNat_eq
  have := op.isLt
  have := m.isLt
  rw [BitVec.extractLsb'_toNat, reqHeader_toNat, Nat.shiftRight_eq_div_pow]
  simp only [zero_toNat]
  omega

/-- A header whose reserved bits are 0 is the header of its opcode and mode. -/
theorem reqHeader_of_fields {h : Word} (hr : h.extractLsb' 10 22 = 0) :
    h = reqHeader (h.extractLsb' 0 8) (h.extractLsb' 8 2) := by
  have hw := word_fields h
  rw [hr] at hw
  exact hw.symm

theorem ofCode_code (m : ColorMode) : ColorMode.ofCode m.code = m := by cases m <;> rfl

theorem code_ofCode : ∀ k : BitVec 2, (ColorMode.ofCode k).code = k := by decide

theorem lowHalf_zeroExtend (v : Half) : lowHalf (v.zeroExtend 32) = v := by
  apply BitVec.eq_of_toNat_eq
  have := v.isLt
  simp only [lowHalf, BitVec.extractLsb'_toNat, BitVec.toNat_setWidth, Nat.shiftRight_eq_div_pow]
  omega

theorem highZero16_zeroExtend (v : Half) : highZero16 (v.zeroExtend 32) = true := by
  simp only [highZero16, decide_eq_true_eq]
  apply BitVec.eq_of_toNat_eq
  have := v.isLt
  simp only [BitVec.extractLsb'_toNat, BitVec.toNat_setWidth, Nat.shiftRight_eq_div_pow, zero_toNat]
  omega

theorem zeroExtend_lowHalf {w : Word} (h : highZero16 w = true) : (lowHalf w).zeroExtend 32 = w := by
  simp only [highZero16, decide_eq_true_eq] at h
  have h' := congrArg BitVec.toNat h
  apply BitVec.eq_of_toNat_eq
  have := w.isLt
  simp only [lowHalf, BitVec.extractLsb'_toNat, BitVec.toNat_setWidth, Nat.shiftRight_eq_div_pow,
    zero_toNat] at h' ⊢
  omega

theorem lowByte_zeroExtend (v : Byte) : lowByte (v.zeroExtend 32) = v := by
  apply BitVec.eq_of_toNat_eq
  have := v.isLt
  simp only [lowByte, BitVec.extractLsb'_toNat, BitVec.toNat_setWidth, Nat.shiftRight_eq_div_pow]
  omega

theorem highZero8_zeroExtend (v : Byte) : highZero8 (v.zeroExtend 32) = true := by
  simp only [highZero8, decide_eq_true_eq]
  apply BitVec.eq_of_toNat_eq
  have := v.isLt
  simp only [BitVec.extractLsb'_toNat, BitVec.toNat_setWidth, Nat.shiftRight_eq_div_pow, zero_toNat]
  omega

theorem zeroExtend_lowByte {w : Word} (h : highZero8 w = true) : (lowByte w).zeroExtend 32 = w := by
  simp only [highZero8, decide_eq_true_eq] at h
  have h' := congrArg BitVec.toNat h
  apply BitVec.eq_of_toNat_eq
  have := w.isLt
  simp only [lowByte, BitVec.extractLsb'_toNat, BitVec.toNat_setWidth, Nat.shiftRight_eq_div_pow,
    zero_toNat] at h' ⊢
  omega

/-- The colour word of R122: its value. -/
theorem colourWord_toNat (r g b : Byte) :
    ((0 : Byte) ++ r ++ g ++ b : Word).toNat = r.toNat * 65536 + g.toNat * 256 + b.toNat := by
  have := r.isLt
  have := g.isLt
  have := b.isLt
  simp only [append_toNat, zero_toNat]
  omega

theorem colourWord_fields (r g b : Byte) :
    ((0 : Byte) ++ r ++ g ++ b : Word).extractLsb' 24 8 = 0 ∧ ((0 : Byte) ++ r ++ g ++ b : Word).extractLsb' 16 8 = r ∧
    ((0 : Byte) ++ r ++ g ++ b : Word).extractLsb' 8 8 = g ∧ ((0 : Byte) ++ r ++ g ++ b : Word).extractLsb' 0 8 = b := by
  have := r.isLt
  have := g.isLt
  have := b.isLt
  refine ⟨?_, ?_, ?_, ?_⟩ <;> apply BitVec.eq_of_toNat_eq <;>
    rw [BitVec.extractLsb'_toNat, colourWord_toNat, Nat.shiftRight_eq_div_pow] <;>
    (try simp only [zero_toNat]) <;> omega

theorem colourWord_of_fields {w : Word} (h : w.extractLsb' 24 8 = 0) :
    (0 : Byte) ++ w.extractLsb' 16 8 ++ w.extractLsb' 8 8 ++ w.extractLsb' 0 8 = w := by
  have h' := congrArg BitVec.toNat h
  apply BitVec.eq_of_toNat_eq
  have := w.isLt
  rw [colourWord_toNat]
  simp only [BitVec.extractLsb'_toNat, Nat.shiftRight_eq_div_pow, zero_toNat] at h' ⊢
  omega

/-! ### Requests -/

/-- A request whose header is an encoding's: the decoder reads its opcode and its mode back. -/
theorem decodeReq_header {q : Req} {op : Byte} {m : BitVec 2} (h : q.h = reqHeader op m) :
    decodeReq q = decodeOp q ∧ q.op = op ∧ q.modeArg = m := by
  have hr : q.reservedBits = 0 := by rw [Req.reservedBits, h]; exact reqHeader_reserved op m
  exact ⟨by rw [decodeReq, if_pos hr], by rw [Req.op, h]; exact reqHeader_op op m,
    by rw [Req.modeArg, h]; exact reqHeader_modeArg op m⟩

theorem decodeReq_writePixel (x y : Word) (r g b : Byte) :
    decodeReq (reqWritePixel x y r g b) =
      .ok (.writePixel x y r g b) := by
  generalize hq : ((reqWritePixel x y r g b) : Req) = q
  obtain ⟨h, ho, hm⟩ := decodeReq_header (q := q) (hq ▸ rfl : q.h = reqHeader opWritePixel 0)
  have ha : q.a = x := hq ▸ rfl
  have hb : q.b = y := hq ▸ rfl
  have hc : q.c = (0 : Byte) ++ r ++ g ++ b := hq ▸ rfl
  unfold decodeOp decodeNoMode decodeClear at h
  rw [h, ho, hm, ha, hb, hc]
  obtain ⟨h0, hr, hg, hb⟩ := colourWord_fields r g b
  rw [hr, hg, hb, show highZero24 ((0 : Byte) ++ r ++ g ++ b) = true from decide_eq_true h0]; rfl

theorem decodeReq_fbSize (m : ColorMode) : decodeReq ⟨reqHeader opFbSize m.code, 0, 0, 0, 0⟩ = .ok (.fbSize m) := by
  cases m <;> decide

theorem decodeReq_setMadctl (value : Byte) :
    decodeReq { reqPlain opSetMadctl with a := value.zeroExtend 32 } =
      .ok (.setMadctl value) := by
  generalize hq : ({ reqPlain opSetMadctl with a := value.zeroExtend 32 } : Req) = q
  obtain ⟨h, ho, hm⟩ := decodeReq_header (q := q) (hq ▸ rfl : q.h = reqHeader opSetMadctl 0)
  have ha : q.a = value.zeroExtend 32 := hq ▸ rfl
  unfold decodeOp decodeNoMode decodeClear at h
  rw [h, ho, hm, ha]
  rw [lowByte_zeroExtend, highZero8_zeroExtend]; rfl

theorem decodeReq_setBrightness (level : Byte) :
    decodeReq { reqPlain opSetBrightness with a := level.zeroExtend 32 } =
      .ok (.setBrightness level) := by
  generalize hq : ({ reqPlain opSetBrightness with a := level.zeroExtend 32 } : Req) = q
  obtain ⟨h, ho, hm⟩ := decodeReq_header (q := q) (hq ▸ rfl : q.h = reqHeader opSetBrightness 0)
  have ha : q.a = level.zeroExtend 32 := hq ▸ rfl
  unfold decodeOp decodeNoMode decodeClear at h
  rw [h, ho, hm, ha]
  rw [lowByte_zeroExtend, highZero8_zeroExtend]; rfl

theorem decodeReq_flushPartial (xs xe ys ye : Half) (m : ColorMode) :
    decodeReq ⟨reqHeader opFlushPartial m.code, xs.zeroExtend 32, xe.zeroExtend 32, ys.zeroExtend 32, ye.zeroExtend 32⟩ =
      .ok (.flushPartial xs xe ys ye m) := by
  generalize hq : (⟨reqHeader opFlushPartial m.code, xs.zeroExtend 32, xe.zeroExtend 32, ys.zeroExtend 32, ye.zeroExtend 32⟩ : Req) = q
  obtain ⟨h, ho, hm⟩ := decodeReq_header (q := q) (hq ▸ rfl : q.h = reqHeader opFlushPartial m.code)
  have ha : q.a = xs.zeroExtend 32 := hq ▸ rfl
  have hb : q.b = xe.zeroExtend 32 := hq ▸ rfl
  have hc : q.c = ys.zeroExtend 32 := hq ▸ rfl
  have hd : q.d = ye.zeroExtend 32 := hq ▸ rfl
  unfold decodeOp decodeNoMode decodeClear at h
  rw [h, ho, hm, ha, hb, hc, hd]
  simp only [lowHalf_zeroExtend, highZero16_zeroExtend, ofCode_code]; rfl

theorem decodeReq_setWindow (xs ys xe ye : Half) :
    decodeReq (reqSetWindow xs ys xe ye) =
      .ok (.setWindow xs ys xe ye) := by
  generalize hq : ((reqSetWindow xs ys xe ye) : Req) = q
  obtain ⟨h, ho, hm⟩ := decodeReq_header (q := q) (hq ▸ rfl : q.h = reqHeader opSetWindow 0)
  have ha : q.a = xs.zeroExtend 32 := hq ▸ rfl
  have hb : q.b = ys.zeroExtend 32 := hq ▸ rfl
  have hc : q.c = xe.zeroExtend 32 := hq ▸ rfl
  have hd : q.d = ye.zeroExtend 32 := hq ▸ rfl
  unfold decodeOp decodeNoMode decodeClear at h
  rw [h, ho, hm, ha, hb, hc, hd]
  simp only [lowHalf_zeroExtend, highZero16_zeroExtend]; rfl

/-! ### Transactions -/

theorem txnCommand_fieldsOk (c : Cfg) (cmd : Byte) (data : Bytes) : (txnCommand c cmd data).fieldsOk = true := by
  simp [Txn.fieldsOk, txnCommand, txnAddr_high, txnAddr_low]

theorem txnPixels_fieldsOk (c : Cfg) (cmd : Byte) (payload : Bytes) : (txnPixels c cmd payload).fieldsOk = true := by
  simp [Txn.fieldsOk, txnPixels, txnAddr_high, txnAddr_low]

theorem decodeTxn_command (c : Cfg) (cmd : Byte) (data : Bytes) :
    decodeTxn c (txnCommand c cmd data) = decodeCommand c cmd data := by
  simp [decodeTxn, Txn.fieldsOk, Txn.cmd, txnCommand, txnAddr_high, txnAddr_low, txnAddr_cmd]

theorem decodeTxn_pixels (c : Cfg) (cmd : Byte) (payload : Bytes) :
    decodeTxn c (txnPixels c cmd payload) = decodePixels c cmd payload := by
  simp [decodeTxn, Txn.fieldsOk, Txn.cmd, txnPixels, txnAddr_high, txnAddr_low, txnAddr_cmd]

end Sys2Proof
end

