-- ==== Sys2Proof/Laws/Lists.lean ====
section
/-! SUPPORT. The action lists the requests expand to: that every transaction in them is a row of the opcode table, how
long they are, and what the chunks of a burst and the rows of a window hold. -/

namespace Sys2Proof.Machine

/-! ### Every command of a list is a row -/

theorem decodeCommand_bare (c : Cfg) :
    (decodeCommand c c.cmdSlpout []).isSome ∧ (decodeCommand c c.cmdSlpin []).isSome ∧
    (decodeCommand c c.cmdTeoff []).isSome ∧ (decodeCommand c c.cmdDispon []).isSome ∧
    (decodeCommand c c.cmdDispoff []).isSome := by
  simp only [decodeCommand, decodeBare]
  refine ⟨?_, ?_, ?_, ?_, ?_⟩ <;> repeat' (first | rfl | split)

theorem decodeCommand_oneByte (c : Cfg) (v : Byte) :
    (decodeCommand c c.cmdBright [v]).isSome ∧ (decodeCommand c c.cmdMadctl [v]).isSome ∧
    (decodeCommand c c.cmdColmod [c.pixfmt c.mode]).isSome := by
  simp only [decodeCommand, decodeOneByte]
  refine ⟨?_, ?_, ?_⟩ <;> repeat' (first | rfl | split)

theorem decodeCommand_window (c : Cfg) (first last : Half) :
    (decodeCommand c c.cmdCaset (windowPayload first last)).isSome ∧
    (decodeCommand c c.cmdRaset (windowPayload first last)).isSome := by
  simp only [windowPayload, be16, List.cons_append, List.nil_append, decodeCommand, decodeFourBytes]
  refine ⟨?_, ?_⟩ <;> repeat' (first | rfl | split)

theorem decodeCommand_mfr (c : Cfg) {e : Byte × Bytes} (h : e ∈ c.mfrInit) : (decodeCommand c e.1 e.2).isSome := by
  obtain ⟨cmd, d⟩ := e
  unfold decodeCommand decodeBare decodeOneByte decodeFourBytes decodeMfr
  repeat' (first | rfl | split | (exfalso; simp_all))

theorem allowed_command {c : Cfg} {op : Option Byte} {cmd : Byte} {data : Bytes}
    (h : (decodeCommand c cmd data).isSome) : allowed c op (.tx (txnCommand c cmd data)) := by
  simpa [allowed, decodeTxn_command]

theorem allowed_optDelay (c : Cfg) (op : Option Byte) (t : Nat) : ∀ a ∈ optDelay t, allowed c op a := by
  intro a h
  unfold optDelay at h
  split at h
  · obtain rfl := List.mem_singleton.1 h
    trivial
  · cases h

/-- The manufacturer's entries, one transaction each. -/
theorem mfrActions_map (c : Cfg) : mfrActions c = c.mfrInit.map fun e => .tx (txnCommand c e.1 e.2) := by
  simp [mfrActions, sendCommandData, List.map_eq_flatMap]

theorem allowed_initSeq (c : Cfg) (op : Option Byte) : ∀ a ∈ initSeq c, allowed c op a := by
  intro a h
  unfold initSeq at h
  rw [mfrActions_map] at h
  simp only [sendCommand, sendCommandData, List.mem_append, List.mem_cons, List.not_mem_nil, or_false, List.mem_map] at h
  rcases h with ((((((rfl | rfl) | ⟨e, he, rfl⟩) | rfl) | rfl) | rfl) | rfl) | rfl
  · exact allowed_command (decodeCommand_bare c).1
  · trivial
  · exact allowed_command (decodeCommand_mfr c he)
  · exact allowed_command (decodeCommand_oneByte c 0).2.2
  · exact allowed_command (decodeCommand_bare c).2.2.1
  · exact allowed_command (decodeCommand_bare c).2.2.2.1
  · trivial
  · exact allowed_command (decodeCommand_oneByte c _).1

theorem allowed_resetSequence (c : Cfg) {op : Option Byte} (h : op = some opConstruct ∨ op = some opReset) :
    ∀ a ∈ resetSequence c, allowed c op a := by
  intro a ha
  simp only [resetSequence, List.mem_cons, List.not_mem_nil, or_false] at ha
  rcases ha with rfl | rfl | rfl | rfl <;> trivial

theorem allowed_windowActions (c : Cfg) (op : Option Byte) (r : Rect) : ∀ a ∈ windowActions c r, allowed c op a := by
  intro a ha
  simp only [windowActions, sendCommandData, List.mem_append, List.mem_cons, List.not_mem_nil, or_false] at ha
  rcases ha with rfl | rfl
  · exact allowed_command (decodeCommand_window _ _ _).1
  · exact allowed_command (decodeCommand_window _ _ _).2

/-- A construction has `11 + len(MFR_INIT)` actions. -/
theorem constructActions_length (c : Cfg) : (constructActions c).length = 11 + c.mfrInit.length := by
  simp [constructActions, resetSequence, initSeq, mfrActions_map, sendCommand, sendCommandData]
  omega

/-! ### Bursts -/

/-- `MAX_CHUNK` is at least 1 on a block that exists (R9). -/
theorem State.maxChunk_pos (s : State) : 1 ≤ s.c.maxChunk := by
  have := s.cfg.ok
  simp only [Cfg.wf, Bool.and_eq_true, decide_eq_true_eq] at this
  exact this.1.1.1.2

/-- Every chunk of a burst has 1 to `MAX_CHUNK` bytes. -/
theorem chunkAt_length {size : Nat} {payload : Bytes} {i : Nat} (hs : 1 ≤ size)
    (hi : i < ceilDiv payload.length size) :
    1 ≤ (chunkAt size payload i).length ∧ (chunkAt size payload i).length ≤ size := by
  have h1 : i + 1 ≤ (payload.length + size - 1) / size := hi
  have h2 := (Nat.le_div_iff_mul_le (by omega)).1 h1
  rw [Nat.add_mul] at h2
  simp only [chunkAt, List.length_take, List.length_drop]
  omega

/-- The first `n` chunks are the first `n * size` bytes. -/
theorem chunks_flatten (size : Nat) (payload : Bytes) :
    ∀ n, ((List.range n).map (chunkAt size payload)).flatten = payload.take (n * size)
  | 0 => by simp
  | n + 1 => by
    rw [List.range_succ, List.map_append, List.flatten_append, chunks_flatten size payload n]
    simp only [List.map_cons, List.map_nil, List.flatten_cons, List.flatten_nil, List.append_nil, chunkAt]
    rw [Nat.add_mul, Nat.one_mul, List.take_add]

/-- The chunks of a burst, `size` bytes each, cover it. -/
theorem le_ceilDiv_mul (a : Nat) {b : Nat} (hb : 1 ≤ b) : a ≤ ceilDiv a b * b := by
  unfold ceilDiv
  have h := Nat.div_add_mod (a + b - 1) b
  have h2 := Nat.mod_lt (a + b - 1) (show b > 0 by omega)
  rw [Nat.mul_comm] at h
  omega

theorem allowed_sendPixels {c : Cfg} (op : Option Byte) (payload : Bytes) (hc : 1 ≤ c.maxChunk) :
    ∀ a ∈ sendPixels c payload, allowed c op a := by
  intro a ha
  simp only [sendPixels, List.mem_map, List.mem_range] at ha
  obtain ⟨i, hi, rfl⟩ := ha
  have := chunkAt_length hc hi
  simp only [allowed, decodeTxn_pixels, decodePixels, chunkLengthOk, this, decide_true, Bool.and_self, if_true, chunkCmd]
  repeat' (first | rfl | split | (exfalso; simp_all))

/-! ### Windows -/

/-- A row is in a window when it lies between the first and the last. -/
theorem mem_windowRows {r : Rect} {y : Nat} (h : r.ys.toNat ≤ r.ye.toNat) :
    y ∈ windowRows r ↔ r.ys.toNat ≤ y ∧ y ≤ r.ye.toNat := by
  simp only [windowRows, List.mem_map, List.mem_range]
  constructor
  · rintro ⟨i, hi, rfl⟩
    omega
  · intro h
    exact ⟨y - r.ys.toNat, by omega, by omega⟩

/-- The gather gives no bytes exactly when some row leaves the framebuffer (R271). -/
theorem gatherRows_none {c : Cfg} {m : Memory} {r : Rect} {mode : ColorMode} :
    ∀ {rows : List Nat}, gatherRows c m r mode rows = none ↔
      ∃ y ∈ rows, ¬ rowOffset c r mode y + rowLength r mode ≤ c.fblen
  | [] => by simp [gatherRows]
  | y :: rows => by
    have ih := gatherRows_none (c := c) (m := m) (r := r) (mode := mode) (rows := rows)
    rw [gatherRows, memRead]
    by_cases h : rowOffset c r mode y + rowLength r mode ≤ c.fblen
    · rw [if_pos h]
      cases hg : gatherRows c m r mode rows with
      | none =>
        obtain ⟨z, hz, hn⟩ := ih.1 hg
        exact iff_of_true rfl ⟨z, List.mem_cons_of_mem _ hz, hn⟩
      | some p =>
        refine iff_of_false (by simp) ?_
        rintro ⟨z, hz, hn⟩
        rcases List.mem_cons.1 hz with rfl | hz
        · exact hn h
        · exact absurd (hg.symm.trans (ih.2 ⟨z, hz, hn⟩)) (by simp)
    · rw [if_neg h]
      exact iff_of_true rfl ⟨y, List.mem_cons_self, h⟩

/-- The gathered bytes are the rows' bytes, one row after the other (R271). -/
theorem gatherRows_some {c : Cfg} {m : Memory} {r : Rect} {mode : ColorMode} :
    ∀ {rows : List Nat} {p : Bytes}, gatherRows c m r mode rows = some p →
      p = rows.flatMap fun y => Memory.readBytes m (rowOffset c r mode y) (rowLength r mode)
  | [], p, h => by cases h; rfl
  | y :: rows, p, h => by
    rw [gatherRows] at h
    split at h
    · next row below h1 h2 =>
      cases h
      rw [List.flatMap_cons, ← gatherRows_some h2]
      unfold memRead at h1
      split at h1 <;> cases h1
      rfl
    · cases h

end Sys2Proof.Machine
end

