-- ==== Sys2Proof/Laws/Memory.lean ====
section
/-! SUPPORT. The framebuffer's contents: every operation keeps the canonical form, and what a read gives after each. -/

namespace Sys2Proof.Machine

theorem Memory.wfFrom_mono {lo lo' : Nat} (h : lo' ≤ lo) : ∀ {m : Memory}, Memory.wfFrom lo m → Memory.wfFrom lo' m
  | [], _ => rfl
  | cell :: rest, hw => by
    simp only [Memory.wfFrom, Bool.and_eq_true, decide_eq_true_eq] at hw ⊢
    exact ⟨⟨by omega, hw.1.2⟩, hw.2⟩

/-- The canonical form of a nonempty list, part by part. -/
theorem Memory.wfFrom_cons {lo : Nat} {cell : Host.Cell} {rest : Memory} :
    Memory.wfFrom lo (cell :: rest) = true ↔ lo ≤ cell.1 ∧ cell.2 ≠ 0 ∧ Memory.wfFrom (cell.1 + 1) rest = true := by
  simp only [Memory.wfFrom, Bool.and_eq_true, decide_eq_true_eq, and_assoc]

/-- Setting a byte keeps the canonical form. -/
theorem Memory.wfFrom_write {a : Nat} {v : Byte} :
    ∀ {m : Memory} {lo : Nat}, lo ≤ a → Memory.wfFrom lo m → Memory.wfFrom lo (Memory.write m a v)
  | [], lo, h, _ => by
    unfold Memory.write
    split
    · rfl
    · next hv0 => exact Memory.wfFrom_cons.2 ⟨h, hv0, rfl⟩
  | cell :: rest, lo, h, hw => by
    obtain ⟨hlo, hv, hr⟩ := Memory.wfFrom_cons.1 hw
    unfold Memory.write
    split
    · next hlt => exact Memory.wfFrom_cons.2 ⟨hlo, hv, Memory.wfFrom_write (by omega) hr⟩
    · split
      · next heq =>
        split
        · exact Memory.wfFrom_mono (by omega) hr
        · next hv0 => exact Memory.wfFrom_cons.2 ⟨h, hv0, heq ▸ hr⟩
      · split
        · exact hw
        · next hv0 => exact Memory.wfFrom_cons.2 ⟨h, hv0, Memory.wfFrom_cons.2 ⟨by dsimp only; omega, hv, hr⟩⟩

theorem Memory.wf_write {m : Memory} {a : Nat} {v : Byte} (h : Memory.wf m) : Memory.wf (Memory.write m a v) :=
  Memory.wfFrom_write (Nat.zero_le a) h

theorem Memory.wf_writeBytes : ∀ {bytes : Bytes} {m : Memory} {off : Nat}, Memory.wf m →
    Memory.wf (Memory.writeBytes m off bytes)
  | [], _, _, h => h
  | v :: rest, m, off, h => by
    rw [Memory.writeBytes]
    exact Memory.wf_writeBytes (Memory.wf_write h)

/-- Below the least offset listed, every byte is 0. -/
theorem Memory.read_below {a : Nat} : ∀ {m : Memory} {lo : Nat}, Memory.wfFrom lo m → a < lo → Memory.read m a = 0
  | [], _, _, _ => rfl
  | cell :: rest, lo, hw, h => by
    obtain ⟨hlo, _, hr⟩ := Memory.wfFrom_cons.1 hw
    rw [Memory.read, if_neg (by omega)]
    exact Memory.read_below hr (by omega)

/-- A read after a write: the byte written at its own offset, the old byte everywhere else. -/
theorem Memory.read_writeFrom {a b : Nat} {v : Byte} :
    ∀ {m : Memory} {lo : Nat}, Memory.wfFrom lo m →
      Memory.read (Memory.write m a v) b = if b = a then v else Memory.read m b
  | [], _, _ => by
    unfold Memory.write
    split
    · next h => simp [Memory.read, h]
    · simp only [Memory.read, eq_comm]
  | cell :: rest, lo, hw => by
    obtain ⟨hlo, hv, hr⟩ := Memory.wfFrom_cons.1 hw
    have below : a ≤ cell.1 → Memory.read rest a = 0 := fun h => Memory.read_below hr (by omega)
    unfold Memory.write
    split
    · next hlt =>
      have ih := Memory.read_writeFrom (a := a) (b := b) (v := v) hr
      simp only [Memory.read, ih]
      by_cases hb : b = a
      · have : cell.1 ≠ a := by omega
        simp [hb, this]
      · simp [hb]
    · split
      · next heq =>
        split
        · next hv0 =>
          by_cases hb : b = a
          · simp [hb, hv0, below (by omega)]
          · have : cell.1 ≠ b := by omega
            simp [hb, Memory.read, this]
        · by_cases hb : b = a
          · simp [Memory.read, hb]
          · have h1 : cell.1 ≠ b := by omega
            have h2 : a ≠ b := fun h => hb h.symm
            simp [Memory.read, hb, h1, h2]
      · next hne =>
        have hb0 : b = a → Memory.read (cell :: rest) b = 0 := by
          intro hb
          have : cell.1 ≠ a := hne
          simp [Memory.read, hb, this, below (by omega)]
        split
        · next hv0 =>
          by_cases hb : b = a
          · rw [if_pos hb, hb0 hb, hv0]
          · rw [if_neg hb]
        · by_cases hb : b = a
          · simp [Memory.read, hb]
          · have h2 : a ≠ b := fun h => hb h.symm
            simp [Memory.read, hb, h2]

theorem Memory.read_write {m : Memory} (h : Memory.wf m) (a b : Nat) (v : Byte) :
    Memory.read (Memory.write m a v) b = if b = a then v else Memory.read m b :=
  Memory.read_writeFrom h

/-- A read after consecutive bytes are set. -/
theorem Memory.read_writeBytes : ∀ {bytes : Bytes} {m : Memory} {off : Nat}, Memory.wf m → ∀ b,
    Memory.read (Memory.writeBytes m off bytes) b =
      if off ≤ b ∧ b < off + bytes.length then bytes.getD (b - off) 0 else Memory.read m b
  | [], m, off, _, b => by
    have : ¬ (off ≤ b ∧ b < off + ([] : Bytes).length) := by simp
    rw [if_neg this]; rfl
  | v :: rest, m, off, h, b => by
    rw [Memory.writeBytes, Memory.read_writeBytes (Memory.wf_write h), Memory.read_write h]
    by_cases hb : b = off
    · subst hb
      simp
    · by_cases hin : off + 1 ≤ b ∧ b < off + 1 + rest.length
      · have h1 : off ≤ b ∧ b < off + (v :: rest).length := by simp only [List.length_cons]; omega
        have h2 : b - off = (b - (off + 1)) + 1 := by omega
        rw [if_pos hin, if_pos h1, h2, List.getD_cons_succ]
      · have h1 : ¬ (off ≤ b ∧ b < off + (v :: rest).length) := by simp only [List.length_cons]; omega
        rw [if_neg hin, if_neg h1, if_neg hb]

/-- A framebuffer just filled: in canonical form, and at each offset below `n` the byte given for it. -/
theorem Memory.ofBytes_spec (f : Nat → Byte) (n : Nat) :
    Memory.wf (Memory.ofBytes f n) = true ∧ ∀ a, Memory.read (Memory.ofBytes f n) a = if a < n then f a else 0 := by
  have key : ∀ n lo,
      Memory.wfFrom lo ((List.range' lo n).filterMap fun i => if f i = 0 then none else some (i, f i)) = true ∧
      ∀ a, Memory.read ((List.range' lo n).filterMap fun i => if f i = 0 then none else some (i, f i)) a =
        if lo ≤ a ∧ a < lo + n then f a else 0 := by
    intro n
    induction n with
    | zero => exact fun lo => ⟨rfl, fun a => (if_neg (by omega)).symm⟩
    | succ n ih =>
      intro lo
      obtain ⟨h1, h2⟩ := ih (lo + 1)
      have step : ∀ a, a ≠ lo →
          (if lo + 1 ≤ a ∧ a < lo + 1 + n then f a else 0) = if lo ≤ a ∧ a < lo + (n + 1) then f a else 0 := by
        intro a ha
        by_cases hb : lo + 1 ≤ a ∧ a < lo + 1 + n
        · rw [if_pos hb, if_pos (by omega)]
        · rw [if_neg hb, if_neg (by omega)]
      have atLo : (if lo ≤ lo ∧ lo < lo + (n + 1) then f lo else 0) = f lo := if_pos (by omega)
      rw [List.range'_succ, List.filterMap_cons]
      by_cases h0 : f lo = 0
      · simp only [h0, if_true]
        refine ⟨Memory.wfFrom_mono (by omega) h1, fun a => ?_⟩
        rw [h2]
        by_cases ha : a = lo
        · rw [ha, if_neg (by omega), atLo, h0]
        · exact step a ha
      · simp only [h0, if_false]
        refine ⟨Memory.wfFrom_cons.2 ⟨Nat.le_refl _, h0, h1⟩, fun a => ?_⟩
        rw [Memory.read, h2]
        by_cases ha : lo = a
        · rw [if_pos ha, ← ha, atLo]
        · rw [if_neg ha]
          exact step a fun h => ha h.symm
  have := key n 0
  rw [← List.range_eq_range'] at this
  simpa [Memory.ofBytes, Memory.wf] using this

/-- At reset there is no framebuffer, so nothing of its contents is out of form. -/
theorem State.reset_fb_wf (m : Memory) (h : State.reset.fb = some m) : Memory.wf m = true := by cases h

end Sys2Proof.Machine
end

