-- ==== Sys2Proof/Laws/State.lean ====
section
/-! SUPPORT. One lemma per field for each operation that updates the state, so that no later proof unfolds a record
update. -/

namespace Sys2Proof.Machine

/-! ### `State.latch` and `State.take` -/

theorem State.latch_eq (s : State) (q : Req) : s.latch q = { s with req := q } := rfl
@[simp] theorem State.latch_cfg (s : State) (q : Req) : (s.latch q).cfg = s.cfg := rfl
@[simp] theorem State.latch_c (s : State) (q : Req) : (s.latch q).c = s.c := rfl
@[simp] theorem State.latch_phase (s : State) (q : Req) : (s.latch q).phase = s.phase := rfl
@[simp] theorem State.latch_busy (s : State) (q : Req) : (s.latch q).busy = s.busy := rfl
@[simp] theorem State.latch_seq (s : State) (q : Req) : (s.latch q).seq = s.seq := rfl
@[simp] theorem State.latch_req (s : State) (q : Req) : (s.latch q).req = q := rfl
@[simp] theorem State.latch_res (s : State) (q : Req) : (s.latch q).res = s.res := rfl
@[simp] theorem State.latch_fb (s : State) (q : Req) : (s.latch q).fb = s.fb := rfl
@[simp] theorem State.latch_gwin (s : State) (q : Req) : (s.latch q).gwin = s.gwin := rfl
@[simp] theorem State.latch_trace (s : State) (q : Req) : (s.latch q).trace = s.trace := rfl
@[simp] theorem State.latch_env (s : State) (q : Req) : (s.latch q).env = s.env := rfl

@[simp] theorem State.take_cfg (s : State) (q : Req) (h : List Req) : (s.take q h).cfg = s.cfg := rfl
@[simp] theorem State.take_c (s : State) (q : Req) (h : List Req) : (s.take q h).c = s.c := rfl
@[simp] theorem State.take_phase (s : State) (q : Req) (h : List Req) : (s.take q h).phase = s.phase := rfl
@[simp] theorem State.take_busy (s : State) (q : Req) (h : List Req) : (s.take q h).busy = s.busy := rfl
@[simp] theorem State.take_seq (s : State) (q : Req) (h : List Req) : (s.take q h).seq = s.seq := rfl
@[simp] theorem State.take_req (s : State) (q : Req) (h : List Req) : (s.take q h).req = q := rfl
@[simp] theorem State.take_res (s : State) (q : Req) (h : List Req) : (s.take q h).res = s.res := rfl
@[simp] theorem State.take_fb (s : State) (q : Req) (h : List Req) : (s.take q h).fb = s.fb := rfl
@[simp] theorem State.take_gwin (s : State) (q : Req) (h : List Req) : (s.take q h).gwin = s.gwin := rfl
@[simp] theorem State.take_trace (s : State) (q : Req) (h : List Req) : (s.take q h).trace = s.trace := rfl
@[simp] theorem State.take_env (s : State) (q : Req) (h : List Req) :
    (s.take q h).env = { s.env with host := h } := rfl

/-! ### `State.load` -/

section
variable (s : State) (op : Byte) (w : Option Rect) (l : List Action)

@[simp] theorem State.load_cfg : (s.load op w l).cfg = s.cfg := rfl
@[simp] theorem State.load_c : (s.load op w l).c = s.c := rfl
@[simp] theorem State.load_phase : (s.load op w l).phase = s.phase := rfl
@[simp] theorem State.load_busy : (s.load op w l).busy = true := rfl
@[simp] theorem State.load_seq : (s.load op w l).seq = { op := some op, list := l, k := 0, window := w } := rfl
@[simp] theorem State.load_req : (s.load op w l).req = s.req := rfl
@[simp] theorem State.load_res : (s.load op w l).res = s.res := rfl
@[simp] theorem State.load_fb : (s.load op w l).fb = s.fb := rfl
@[simp] theorem State.load_gwin : (s.load op w l).gwin = s.gwin := rfl
@[simp] theorem State.load_trace : (s.load op w l).trace = s.trace := rfl
@[simp] theorem State.load_env : (s.load op w l).env = s.env := rfl
end

/-! ### `State.finish` -/

section
variable (s : State) (o : Completion)

theorem State.raise_eq : s.raise o = s.finish o := rfl
@[simp] theorem State.finish_cfg : (s.finish o).cfg = s.cfg := rfl
@[simp] theorem State.finish_c : (s.finish o).c = s.c := rfl
@[simp] theorem State.finish_phase : (s.finish o).phase = phaseAfter s.phase o := rfl
@[simp] theorem State.finish_busy : (s.finish o).busy = false := rfl
@[simp] theorem State.finish_seq : (s.finish o).seq = s.seq := rfl
@[simp] theorem State.finish_req : (s.finish o).req = s.req := rfl
@[simp] theorem State.finish_res : (s.finish o).res = o.res := rfl
@[simp] theorem State.finish_fb :
    (s.finish o).fb = if inConstruction s.phase && !o.isOk then none else s.fb := rfl
@[simp] theorem State.finish_gwin : (s.finish o).gwin = gwinAfter s.seq.op s.seq.window s.gwin o := rfl
@[simp] theorem State.finish_trace : (s.finish o).trace = s.trace := rfl
@[simp] theorem State.finish_env : (s.finish o).env = s.env := rfl
end

/-! ### `State.beginAction` -/

section
variable (s : State)

@[simp] theorem State.beginAction_cfg : s.beginAction.cfg = s.cfg := rfl
@[simp] theorem State.beginAction_c : s.beginAction.c = s.c := rfl
@[simp] theorem State.beginAction_phase : s.beginAction.phase = phaseAtAction s.phase := rfl
@[simp] theorem State.beginAction_busy : s.beginAction.busy = s.busy := rfl
@[simp] theorem State.beginAction_seq : s.beginAction.seq = s.seq := rfl
@[simp] theorem State.beginAction_req : s.beginAction.req = s.req := rfl
@[simp] theorem State.beginAction_res : s.beginAction.res = s.res := rfl
@[simp] theorem State.beginAction_fb : s.beginAction.fb = s.fb := rfl
@[simp] theorem State.beginAction_gwin : s.beginAction.gwin = s.gwin := rfl
@[simp] theorem State.beginAction_trace : s.beginAction.trace = s.trace := rfl
@[simp] theorem State.beginAction_env : s.beginAction.env = s.env := rfl
end

/-! ### `State.endAction`: the fields that do not depend on whether the list has ended -/

section
variable (s : State)

@[simp] theorem State.endAction_cfg : s.endAction.cfg = s.cfg := by unfold State.endAction; dsimp only; split <;> rfl
@[simp] theorem State.endAction_c : s.endAction.c = s.c := congrArg ValidCfg.toCfg s.endAction_cfg
@[simp] theorem State.endAction_req : s.endAction.req = s.req := by unfold State.endAction; dsimp only; split <;> rfl
@[simp] theorem State.endAction_trace : s.endAction.trace = s.trace := by
  unfold State.endAction; dsimp only; split <;> rfl
@[simp] theorem State.endAction_env : s.endAction.env = s.env := by unfold State.endAction; dsimp only; split <;> rfl
@[simp] theorem State.endAction_seq : s.endAction.seq = { s.seq with k := s.seq.k + 1 } := by
  unfold State.endAction; dsimp only; split <;> rfl
@[simp] theorem State.endAction_fb : s.endAction.fb = s.fb := by
  unfold State.endAction
  dsimp only
  split
  · rfl
  · simp [Completion.isOk]
end

/-! ### The environment -/

@[simp] theorem Env.afterTx_host (e : Env) : e.afterTx.host = e.host := by unfold Env.afterTx; split <;> rfl
@[simp] theorem Env.afterTx_rstAnswers (e : Env) : e.afterTx.rstAnswers = e.rstAnswers := by
  unfold Env.afterTx; split <;> rfl
@[simp] theorem Env.afterRst_host (e : Env) : e.afterRst.host = e.host := by unfold Env.afterRst; split <;> rfl
@[simp] theorem Env.afterRst_txAnswers (e : Env) : e.afterRst.txAnswers = e.txAnswers := by
  unfold Env.afterRst; split <;> rfl

end Sys2Proof.Machine
end

