-- ==== Sys2Proof/Laws/Ops.lean ====
section
/-! SUPPORT. For each shared operation of the machine, what it can do, said once: acceptance of a request, completion,
the sequencer's actions, and the step itself. -/

namespace Sys2Proof.Machine

/-! ### Acceptance -/

theorem admitted_construct (p : Phase) : admitted opConstruct p = true ↔ p = .powerOn ∨ p = .failed := by
  simp [admitted]

theorem admitted_other {op : Byte} (h : op ≠ opConstruct) (p : Phase) : admitted op p = true ↔ p = .ready := by
  simp [admitted, h]

/-- A request in a phase that admits it, with none in progress, is accepted. -/
theorem State.request_accepted {s : State} {op : Byte} (hb : s.busy = false) (ha : admitted op s.phase = true)
    (o : Out) : s.request op o = o := by
  simp [State.request, hb, ha]

/-- A request other than CONSTRUCT in READY, with none in progress, is accepted. -/
theorem State.request_ready {s : State} {op : Byte} (hb : s.busy = false) (hp : s.phase = .ready)
    (hop : op ≠ opConstruct) (o : Out) : s.request op o = o :=
  State.request_accepted hb ((admitted_other hop _).2 hp) o

theorem State.request_busy {s : State} (hb : s.busy = true) (op : Byte) (o : Out) :
    s.request op o = .refused .busy := by
  simp [State.request, hb]

theorem State.request_notAdmitted {s : State} {op : Byte} (hb : s.busy = false) (ha : admitted op s.phase = false)
    (o : Out) : s.request op o = .refused (.notAdmitted s.phase) := by
  simp [State.request, hb, ha]

/-- If a request answers a next state, it was accepted. -/
theorem State.request_next {s t : State} {op : Byte} {o : Out} (h : s.request op o = .next t) :
    s.busy = false ∧ admitted op s.phase = true ∧ o = .next t := by
  unfold State.request at h
  split at h
  · cases h
  · split at h
    · next hb ha => exact ⟨by simpa using hb, ha, h⟩
    · cases h

/-- If a request answers a fault, it was accepted. -/
theorem State.request_fault {s : State} {op : Byte} {o : Out} {f : Fault} (h : s.request op o = .fault f) :
    s.busy = false ∧ admitted op s.phase = true ∧ o = .fault f := by
  unfold State.request at h
  split at h
  · cases h
  · split at h
    · next hb ha => exact ⟨by simpa using hb, ha, h⟩
    · cases h

/-! ### Completion -/

@[simp] theorem inConstruction_ready : inConstruction .ready = false := rfl
@[simp] theorem phaseAfter_ready (o : Completion) : phaseAfter .ready o = .ready := rfl
@[simp] theorem phaseAtAction_ready : phaseAtAction .ready = .ready := rfl
@[simp] theorem phaseAfterAction_ready (k : Nat) : phaseAfterAction .ready k = .ready := rfl
@[simp] theorem isOk_ok (v0 v1 : Word) : (Completion.ok v0 v1).isOk = true := rfl
@[simp] theorem isOk_interfaceError (e : TErr) : (Completion.interfaceError e).isOk = false := rfl
@[simp] theorem isOk_resetError (e : RErr) : (Completion.resetError e).isOk = false := rfl
@[simp] theorem isOk_invalidConfiguration : Completion.invalidConfiguration.isOk = false := rfl

/-- Beginning an action does not end a construction. -/
@[simp] theorem inConstruction_atAction (p : Phase) : inConstruction (phaseAtAction p) = inConstruction p := by
  cases p <;> rfl

/-- A request that performs no action, in READY: only `RES` and the sequencer change. -/
theorem State.answer_ready {s : State} {op : Byte} (hb : s.busy = false) (hp : s.phase = .ready)
    (hop : forgetsWindow (some op) = false) (v0 v1 : Word) :
    s.answer op v0 v1 =
      { s with res := ⟨.ok, .none, v0, v1⟩, seq := { op := some op, list := [], k := 0, window := none } } := by
  simp [State.answer, State.finish, State.load, hp, gwinAfter, hop, Completion.res, hb]

/-- A request whose expansion is an error, in READY: only `RES` and `seq.op` change. -/
theorem State.reject_ready {s : State} {op : Byte} (hb : s.busy = false) (hp : s.phase = .ready) :
    s.reject op .invalidConfiguration =
      { s with res := ⟨.invalidConfiguration, .none, 0, 0⟩, seq := { s.seq with op := some op } } := by
  simp [State.reject, State.raise, State.finish, hp, gwinAfter, Completion.res, hb]

/-! ### The sequencer -/

theorem State.current_some {s : State} {a : Action} (h : s.current = some a) :
    s.busy = true ∧ s.seq.list[s.seq.k]? = some a := by
  unfold State.current at h
  split at h
  · next hb => exact ⟨hb, h⟩
  · cases h

theorem State.current_idle {s : State} (hb : s.busy = false) : s.current = none := by
  simp [State.current, hb]

/-- After an action that is not the last, the request goes on. -/
theorem State.endAction_more {s : State} (h : s.seq.k + 1 < s.seq.list.length) :
    s.endAction =
      { s with phase := phaseAfterAction s.phase s.seq.k, seq := { s.seq with k := s.seq.k + 1 } } := by
  simp [State.endAction, h]

/-- After the last action, the request completes with OK. -/
theorem State.endAction_last {s : State} (h : s.seq.list.length ≤ s.seq.k + 1) :
    s.endAction =
      ({ s with phase := phaseAfterAction s.phase s.seq.k, seq := { s.seq with k := s.seq.k + 1 } } : State).finish
        (.ok 0 0) := by
  simp [State.endAction, Nat.not_lt.2 h]

theorem State.performTx_ok {s : State} (t : Txn) (h : s.txResponse = .ok) :
    s.performTx t =
      ({ s.beginAction with trace := s.trace ++ [.tx t .ok], env := s.env.afterTx } : State).endAction := by
  simp [State.performTx, h]

theorem State.performTx_err {s : State} (t : Txn) {e : TErr} (h : s.txResponse = .err e) :
    s.performTx t =
      ({ s.beginAction with trace := s.trace ++ [.tx t (.err e)], env := s.env.afterTx } : State).finish
        (.interfaceError e) := by
  simp [State.performTx, h, State.raise]

theorem State.performRst_ok {s : State} (l : Level) (h : s.rstResponse = .ok) :
    s.performRst l =
      ({ s.beginAction with trace := s.trace ++ [.rst l .ok], env := s.env.afterRst } : State).endAction := by
  simp [State.performRst, h]

theorem State.performRst_err {s : State} (l : Level) {e : RErr} (h : s.rstResponse = .err e) :
    s.performRst l =
      ({ s.beginAction with trace := s.trace ++ [.rst l (.err e)], env := s.env.afterRst } : State).finish
        (.resetError e) := by
  simp [State.performRst, h, State.raise]

/-- A framebuffer write inside the framebuffer. -/
theorem State.memWrite_inside {s : State} {m : Memory} {off : Nat} {v : Bytes} (hf : s.fb = some m)
    (hl : off + v.length ≤ s.c.fblen) :
    s.memWrite off v = .ok { s with fb := some (Memory.writeBytes m off v) } := by
  simp [State.memWrite, hf, hl]

/-- If a framebuffer write answers a state, it was inside the framebuffer and changed nothing else. -/
theorem State.memWrite_ok {s t : State} {off : Nat} {v : Bytes} (h : s.memWrite off v = .ok t) :
    ∃ m, s.fb = some m ∧ off + v.length ≤ s.c.fblen ∧ t = { s with fb := some (Memory.writeBytes m off v) } := by
  unfold State.memWrite at h
  split at h
  · cases h
  · next m hm =>
    split at h
    · next hl => cases h; exact ⟨m, hm, hl, rfl⟩
    · cases h

/-- An internal write inside the framebuffer. -/
theorem State.performFbw_inside {s : State} {m : Memory} {off : Nat} {v : Bytes} (hf : s.fb = some m)
    (hl : off + v.length ≤ s.c.fblen) :
    s.performFbw off v =
      .next ({ s.beginAction with fb := some (Memory.writeBytes m off v) } : State).endAction := by
  rw [State.performFbw, State.memWrite_inside (s := s.beginAction) hf hl]

theorem State.performFbw_outside {s : State} {m : Memory} {off : Nat} {v : Bytes} (hf : s.fb = some m)
    (hl : ¬ off + v.length ≤ s.c.fblen) : s.performFbw off v = .fault (.fbOutOfRange off v.length) := by
  simp [State.performFbw, State.memWrite, hf, hl]

theorem State.performFbw_absent {s : State} (hf : s.fb = none) (off : Nat) (v : Bytes) :
    s.performFbw off v = .fault .fbAbsent := by
  simp [State.performFbw, State.memWrite, hf]

/-- If an internal write answers a next state, it was inside the framebuffer. -/
theorem State.performFbw_next {s t : State} {off : Nat} {v : Bytes} (h : s.performFbw off v = .next t) :
    ∃ m, s.fb = some m ∧ off + v.length ≤ s.c.fblen ∧
      t = ({ s.beginAction with fb := some (Memory.writeBytes m off v) } : State).endAction := by
  unfold State.performFbw at h
  split at h
  · next u hu =>
    obtain ⟨m, hm, hl, rfl⟩ := State.memWrite_ok hu
    cases h
    exact ⟨m, hm, hl, rfl⟩
  · cases h

/-- A transaction row answers a next state only as the current action, and performs it. -/
theorem State.emit_next {s u : State} {t : Txn} (h : s.emit t = .next u) :
    s.current = some (.tx t) ∧ u = s.performTx t := by
  unfold State.emit at h
  split at h
  · next hc => cases h; exact ⟨hc, rfl⟩
  · cases h

/-- Every transaction row of the table is `State.emit` of its transaction. -/
theorem exec_of_encodeTxn {s : State} {i : Instr} {t : Txn} (h : encodeTxn s.c i = some t) : exec i s = s.emit t := by
  cases i <;> simp only [encodeTxn, reduceCtorEq, Option.some.injEq] at h <;> subst h <;> rfl

/-! ### One step -/

theorem fetch_busy {s : State} (hb : s.busy = true) : fetch s = fetchAction s := by simp [fetch, hb]

theorem fetch_idle {s : State} (hb : s.busy = false) : fetch s = fetchRequest s := by simp [fetch, hb]

theorem step_of_run {s t : State} {i : Instr} (h : fetch s = .run i t) : step s = exec i t := by simp [step, h]

theorem step_of_done {s : State} {o : Out} (h : fetch s = .done o) : step s = o := by simp [step, h]

theorem step_rst {s : State} {l : Level} (h : s.current = some (.rst l)) : step s = .next (s.performRst l) :=
  step_of_done (by rw [fetch_busy (State.current_some h).1]; simp [fetchAction, h])

theorem step_dly {s : State} {ms : Nat} (h : s.current = some (.dly ms)) : step s = .next (s.performDly ms) :=
  step_of_done (by rw [fetch_busy (State.current_some h).1]; simp [fetchAction, h])

theorem step_fbw {s : State} {off : Nat} {v : Bytes} (h : s.current = some (.fbw off v)) :
    step s = s.performFbw off v :=
  step_of_done (by rw [fetch_busy (State.current_some h).1]; simp [fetchAction, h])

/-- At the end of the list the request completes. -/
theorem step_finish {s : State} (hb : s.busy = true) (hc : s.current = none) : step s = .next (s.finish (.ok 0 0)) :=
  step_of_done (by rw [fetch_busy hb]; simp [fetchAction, hc])

/-- A transaction that is no row of the table is refused. -/
theorem step_neverEmitted {s : State} {t : Txn} (hc : s.current = some (.tx t)) (hd : decodeTxn s.c t = none) :
    step s = .refused .neverEmitted :=
  step_of_done (by rw [fetch_busy (State.current_some hc).1]; simp [fetchAction, hc, hd])

/-- Words that are no request are refused. -/
theorem step_badRequest {s : State} {q : Req} {rest : List Req} {e : DecodeError} (hb : s.busy = false)
    (hh : s.env.host = q :: rest) (hd : decodeReq q = .error e) : step s = .refused (.badRequest e) :=
  step_of_done (by rw [fetch_idle hb]; simp [fetchRequest, hh, hd])

end Sys2Proof.Machine
end

