-- ==== Sys2Proof/Laws/PerInstr.lean ====
section
/-! SUPPORT. What holds of every instruction as syntax: it is a request, a pseudo-request or a transaction and never two
of them, a request's words decode to it, and a transaction has only the fields its form has (spec/30_encoding.md R101 to
R105, R113, R120 to R129). One lemma per constructor. -/

namespace Sys2Proof.Laws.Encoding

/-- The words of a request decode to it; a transaction has `ADDR[23:16] = ADDR[7:0] = LEN = 0` and one of the two pairs
of data mode and opcode; and no instruction is both. -/
def Statement (i : Instr) : Prop :=
  (∀ q, encodeReq i = some q → decodeReq q = .ok i) ∧
  (∀ c x, encodeTxn c i = some x →
    x.fieldsOk = true ∧ (x.dm = .single ∧ x.opc = c.ctrlOpcode ∨ x.dm = .quad ∧ x.opc = c.pixelOpcode)) ∧
  ((encodeReq i).isSome = true → ∀ c, encodeTxn c i = none)

theorem of_request {i : Instr} {q : Req} (he : encodeReq i = some q) (hd : decodeReq q = .ok i)
    (ht : ∀ c, encodeTxn c i = none) : Statement i :=
  ⟨fun _ h => Option.some.inj (he.symm.trans h) ▸ hd, fun c _ h => absurd ((ht c).symm.trans h) nofun, fun _ => ht⟩

theorem of_command {i : Instr} (cmd : Cfg → Byte) (data : Cfg → Bytes) (he : encodeReq i = none)
    (ht : ∀ c, encodeTxn c i = some (txnCommand c (cmd c) (data c))) : Statement i := by
  refine ⟨fun _ h => absurd (he.symm.trans h) nofun, fun c x h => ?_, fun h => by rw [he] at h; cases h⟩
  obtain rfl := Option.some.inj ((ht c).symm.trans h)
  exact ⟨txnCommand_fieldsOk _ _ _, .inl ⟨rfl, rfl⟩⟩

theorem of_pixels {i : Instr} (cmd : Cfg → Byte) (payload : Bytes) (he : encodeReq i = none)
    (ht : ∀ c, encodeTxn c i = some (txnPixels c (cmd c) payload)) : Statement i := by
  refine ⟨fun _ h => absurd (he.symm.trans h) nofun, fun c x h => ?_, fun h => by rw [he] at h; cases h⟩
  obtain rfl := Option.some.inj ((ht c).symm.trans h)
  exact ⟨txnPixels_fieldsOk _ _ _, .inr ⟨rfl, rfl⟩⟩

theorem of_pseudo {i : Instr} (he : encodeReq i = none) (ht : ∀ c, encodeTxn c i = none) : Statement i :=
  ⟨fun _ h => absurd (he.symm.trans h) nofun, fun c _ h => absurd ((ht c).symm.trans h) nofun, fun _ => ht⟩

theorem construct : Statement .construct := of_request rfl (by decide) fun _ => rfl
theorem reset : Statement .reset := of_request rfl (by decide) fun _ => rfl
theorem init : Statement .init := of_request rfl (by decide) fun _ => rfl
theorem writePixel (x y : Word) (r g b : Byte) : Statement (.writePixel x y r g b) := of_request rfl (decodeReq_writePixel x y r g b) fun _ => rfl
theorem getSize : Statement .getSize := of_request rfl (by decide) fun _ => rfl
theorem fbSize (m : ColorMode) : Statement (.fbSize m) := of_request rfl (decodeReq_fbSize m) fun _ => rfl
theorem flushFull : Statement .flushFull := of_request rfl (by decide) fun _ => rfl
theorem flushPartial (xs xe ys ye : Half) (mode : ColorMode) : Statement (.flushPartial xs xe ys ye mode) := of_request rfl (decodeReq_flushPartial xs xe ys ye mode) fun _ => rfl
theorem sleepIn : Statement .sleepIn := of_request rfl (by decide) fun _ => rfl
theorem sleepOut : Statement .sleepOut := of_request rfl (by decide) fun _ => rfl
theorem displayOn : Statement .displayOn := of_request rfl (by decide) fun _ => rfl
theorem displayOff : Statement .displayOff := of_request rfl (by decide) fun _ => rfl
theorem setMadctl (value : Byte) : Statement (.setMadctl value) := of_request rfl (decodeReq_setMadctl value) fun _ => rfl
theorem setBrightness (level : Byte) : Statement (.setBrightness level) := of_request rfl (decodeReq_setBrightness level) fun _ => rfl
theorem setWindow (xs ys xe ye : Half) : Statement (.setWindow xs ys xe ye) := of_request rfl (decodeReq_setWindow xs ys xe ye) fun _ => rfl

theorem drawIter (pixels : List Pixel) : Statement (.drawIter pixels) := of_pseudo rfl fun _ => rfl
theorem fullWindow : Statement .fullWindow := of_pseudo rfl fun _ => rfl

theorem slpout : Statement .slpout := of_command (·.cmdSlpout) (fun _ => []) rfl fun _ => rfl
theorem slpin : Statement .slpin := of_command (·.cmdSlpin) (fun _ => []) rfl fun _ => rfl
theorem colmod : Statement .colmod := of_command (·.cmdColmod) (fun c => [c.pixfmt c.mode]) rfl fun _ => rfl
theorem teoff : Statement .teoff := of_command (·.cmdTeoff) (fun _ => []) rfl fun _ => rfl
theorem dispon : Statement .dispon := of_command (·.cmdDispon) (fun _ => []) rfl fun _ => rfl
theorem dispoff : Statement .dispoff := of_command (·.cmdDispoff) (fun _ => []) rfl fun _ => rfl
theorem bright (level : Byte) : Statement (.bright level) :=
  of_command (·.cmdBright) (fun _ => [level]) rfl fun _ => rfl
theorem madctl (value : Byte) : Statement (.madctl value) :=
  of_command (·.cmdMadctl) (fun _ => [value]) rfl fun _ => rfl
theorem caset (xs xe : Half) : Statement (.caset xs xe) :=
  of_command (·.cmdCaset) (fun _ => windowPayload xs xe) rfl fun _ => rfl
theorem raset (ys ye : Half) : Statement (.raset ys ye) :=
  of_command (·.cmdRaset) (fun _ => windowPayload ys ye) rfl fun _ => rfl
theorem ramwr (payload : Bytes) : Statement (.ramwr payload) := of_pixels (·.cmdRamwr) payload rfl fun _ => rfl
theorem ramwrc (payload : Bytes) : Statement (.ramwrc payload) := of_pixels (·.cmdRamwrc) payload rfl fun _ => rfl
theorem mfrEntry (cmd : Byte) (data : Bytes) : Statement (.mfrEntry cmd data) :=
  of_command (fun _ => cmd) (fun _ => data) rfl fun _ => rfl

end Sys2Proof.Laws.Encoding
end

