-- ==== Sys2Proof/Tests/Slice0.lean ====
section
/-! SUPPORT. Tests on the example configuration EX of spec/95_test_vectors.md, with expected results from that file, and
for each statement of Obligations.lean that has hypotheses a witness that meets them. -/

namespace Sys2Proof.Tests

open Sys2Proof.Machine

/-! ### The example configuration and small states -/

/-- EX of spec/95_test_vectors.md. Every value is illustrative. -/
def ex : Cfg :=
  { (default : Cfg) with
    w := 4, h := 3, mode := .rgb888, maxChunk := 16, maxColIndex := 5, ctrlOpcode := 0x02, pixelOpcode := 0x32
    cmdRamwr := 0x2C, cmdRamwrc := 0x3C, cmdCaset := 0x2A, cmdRaset := 0x2B, cmdSlpout := 0x11, cmdSlpin := 0x10
    cmdDispon := 0x29, cmdDispoff := 0x28, cmdColmod := 0x3A, cmdTeoff := 0x34, cmdMadctl := 0x36, cmdBright := 0x51
    brightMax := 0xFF, pixfmt565 := 0x55, pixfmt888 := 0x77, pixfmt666 := 0x66, mfrInit := [(0xFE, [0x00])]
    tRstLow := 10, tRstHigh := 120, tInitSlpout := 120, tInitDispon := 20, fbMax := 36 }

def exCfg : ValidCfg := ⟨ex, by decide⟩

/-- The framebuffer of section 2.5: `10 20 30` at offset 15 and `40 50 60` at 18, zeros elsewhere. -/
def pixels : Memory := [(15, 0x10), (16, 0x20), (17, 0x30), (18, 0x40), (19, 0x50), (20, 0x60)]

/-- An error value of each collaborator. The types are open, and these are the values known to exist. -/
def terr : TErr := {}
def rerr : RErr := {}

def noEnv : Env := { host := [], txAnswers := [], rstAnswers := [], draws := 0 }

/-- READY and idle under EX. -/
def idle : State :=
  { cfg := exCfg, phase := .ready, busy := false, seq := { op := none, list := [], k := 0, window := none }
    req := ⟨0, 0, 0, 0, 0⟩, res := ⟨.ok, .none, 0, 0⟩, fb := some pixels, gwin := .rect ⟨1, 1, 2, 1⟩, trace := []
    env := noEnv }

/-- POWERON under EX. -/
def off : State := { idle with phase := .powerOn, fb := none, gwin := .unknown }

/-- The host's next request. -/
def asked (s : State) (q : Req) : State := { s with env := { s.env with host := [q] } }

/-- The collaborators' next responses. -/
def answered (s : State) (t : List (Resp TErr)) (r : List (Resp RErr)) : State :=
  { s with env := { s.env with txAnswers := t, rstAnswers := r } }

/-- A request of READY in progress, at action `k` of its list. -/
def during (op : Byte) (list : List Action) (k : Nat) (window : Option Rect) : State :=
  { idle with busy := true, seq := { op := some op, list := list, k := k, window := window } }

/-- A CONSTRUCT in progress, at its action `k` (V-L1). -/
def constructing (k : Nat) : State :=
  { idle with
    phase := constructPhase k, busy := true, gwin := .unknown
    seq := { op := some 0x01, list := constructActions ex, k := k, window := none } }

/-- A transaction that a row of the table performs, as the sequencer's only action. -/
def sending (t : Txn) : State := during 0x34 [.tx t] 0 none

/-- The full flush of V-FL1 in progress, at action `k`. -/
def flushing (k : Nat) : State :=
  during 0x20 (flushActions ex ⟨0, 0, 3, 2⟩ (Memory.readBytes pixels 0 36)) k (some ⟨0, 0, 3, 2⟩)

/-- What holds of the next state, if there is one. -/
def after (o : Out) (p : State → Bool) : Bool :=
  match o with
  | .next t => p t
  | .fault _ => false
  | .refused _ => false

/-- The refusal, if there is one. -/
def refusal (o : Out) : Option Refusal :=
  match o with
  | .next _ => none
  | .fault _ => none
  | .refused r => some r

/-- The control transaction of a command byte under EX, its fields written out from R101 to R104. -/
def control (cmd : Byte) (data : Bytes) : Txn := ⟨.single, 0x02, (0x00 : Byte) ++ cmd ++ (0x00 : Byte), 0, data⟩

/-- The pixel transaction of a command byte under EX. -/
def burst (cmd : Byte) (data : Bytes) : Txn := ⟨.quad, 0x32, (0x00 : Byte) ++ cmd ++ (0x00 : Byte), 0, data⟩

theorem next_of_after {o : Out} {p : State → Bool} (h : after o p = true) : ∃ t, o = .next t ∧ p t = true := by
  cases o with
  | next t => exact ⟨t, rfl, h⟩
  | fault f => cases h
  | refused r => cases h

/-! ### Well-formedness: an ill-formed term for each check -/

theorem test_wf_accepts : Instr.wf ex (.ramwr (List.replicate 16 0)) = true ∧ Instr.wf ex (.ramwrc [0x01]) = true ∧
    Instr.wf ex (.mfrEntry 0xFE [0x00]) = true := by decide
theorem test_wf_empty_first_chunk : Instr.wf ex (.ramwr []) = false := by decide
theorem test_wf_long_first_chunk : Instr.wf ex (.ramwr (List.replicate 17 0)) = false := by decide
theorem test_wf_empty_later_chunk : Instr.wf ex (.ramwrc []) = false := by decide
theorem test_wf_long_later_chunk : Instr.wf ex (.ramwrc (List.replicate 17 0)) = false := by decide
theorem test_wf_unknown_entry : Instr.wf ex (.mfrEntry 0xFE [0x01]) = false := by decide
theorem test_cfg_checks :
    ex.wf = true ∧ Cfg.wf { ex with w := 0 } = false ∧ Cfg.wf { ex with h := 0 } = false ∧
    Cfg.wf { ex with maxChunk := 0 } = false ∧ Cfg.wf { ex with fbMax := 35 } = false ∧
    Cfg.wf { ex with tInitSlpout := 0 } = false ∧ Cfg.wf { ex with tInitDispon := 0 } = false := by decide

/-! ### Decoding: words written out from R120 to R126 -/

theorem test_decode_construct : decodeReq ⟨0b00000001, 0xFFFFFFFF, 0x12345678, 0, 0⟩ = .ok .construct := by decide
theorem test_decode_reset : decodeReq ⟨0b00000010, 0, 0, 0, 0⟩ = .ok .reset := by decide
theorem test_decode_init : decodeReq ⟨0b00000011, 0, 0, 0, 0⟩ = .ok .init := by decide
theorem test_decode_writePixel :
    decodeReq ⟨0b00010000, 0xFFFFFFFD, 7, 0b00000000_11111111_10000000_00000001, 0⟩ =
      .ok (.writePixel 0xFFFFFFFD 7 0xFF 0x80 0x01) := by decide
theorem test_decode_getSize : decodeReq ⟨0b00010001, 0, 0, 0, 0⟩ = .ok .getSize := by decide
theorem test_decode_fbSize :
    decodeReq ⟨0b00_00010010, 0, 0, 0, 0⟩ = .ok (.fbSize .rgb565) ∧
    decodeReq ⟨0b01_00010010, 0, 0, 0, 0⟩ = .ok (.fbSize .rgb888) ∧
    decodeReq ⟨0b10_00010010, 0, 0, 0, 0⟩ = .ok (.fbSize .rgb666) ∧
    decodeReq ⟨0b11_00010010, 0, 0, 0, 0⟩ = .ok (.fbSize .gray8) := by decide
theorem test_decode_flushFull : decodeReq ⟨0b00100000, 0, 0, 0, 0⟩ = .ok .flushFull := by decide
theorem test_decode_flushPartial :
    decodeReq ⟨0x00000121, 0x0A, 0x13, 5, 6⟩ = .ok (.flushPartial 10 19 5 6 .rgb888) := by decide
theorem test_decode_power :
    decodeReq ⟨0b00110000, 0, 0, 0, 0⟩ = .ok .sleepIn ∧ decodeReq ⟨0b00110001, 0, 0, 0, 0⟩ = .ok .sleepOut ∧
    decodeReq ⟨0b00110010, 0, 0, 0, 0⟩ = .ok .displayOn ∧ decodeReq ⟨0b00110011, 0, 0, 0, 0⟩ = .ok .displayOff := by
  decide
theorem test_decode_registers :
    decodeReq ⟨0b00110100, 0x60, 0, 0, 0⟩ = .ok (.setMadctl 0x60) ∧
    decodeReq ⟨0b00110101, 0x80, 0, 0, 0⟩ = .ok (.setBrightness 0x80) := by decide
theorem test_decode_setWindow :
    decodeReq ⟨0b00110110, 0x1234, 1, 0xFFFF, 2⟩ = .ok (.setWindow 0x1234 1 0xFFFF 2) := by decide

/-- V-E5 to V-E11: each refusal by its name. -/
theorem test_decode_refusals :
    decodeReq ⟨0x00000004, 0, 0, 0, 0⟩ = .error (.unassignedOp 0x04) ∧
    decodeReq ⟨0x00000000, 0, 0, 0, 0⟩ = .error (.unassignedOp 0x00) ∧
    decodeReq ⟨0x000000FF, 0, 0, 0, 0⟩ = .error (.unassignedOp 0xFF) ∧
    decodeReq ⟨0x00000110, 0, 0, 0x00112233, 0⟩ = .error .modeArgNotZero ∧
    decodeReq ⟨0x00000410, 0, 0, 0x00112233, 0⟩ = .error .reservedHeaderBit ∧
    decodeReq ⟨0x00000010, 0, 0, 0x01112233, 0⟩ = .error .reservedOperandBit ∧
    decodeReq ⟨0x00000035, 0x00000100, 0, 0, 0⟩ = .error .reservedOperandBit ∧
    decodeReq ⟨0x00000121, 0x00010000, 1, 0, 0⟩ = .error .reservedOperandBit ∧
    decodeWords [0x00000001, 0, 0, 0] = .error .badLength := by decide

/-! ### Transactions: heads written out from R101 to R104, with the table's bit numbering -/

theorem test_txn_slpout : decodeTxn ex (txnOfTableWord ex 0b0_00000010_00000000_00010001_00000000) = some .slpout := by decide
theorem test_txn_slpin : decodeTxn ex (txnOfTableWord ex 0b0_00000010_00000000_00010000_00000000) = some .slpin := by decide
theorem test_txn_colmod : decodeTxn ex (txnOfTableWord ex 0b0_00000010_00000000_00111010_00000000) = some .colmod := by decide
theorem test_txn_teoff : decodeTxn ex (txnOfTableWord ex 0b0_00000010_00000000_00110100_00000000) = some .teoff := by decide
theorem test_txn_dispon : decodeTxn ex (txnOfTableWord ex 0b0_00000010_00000000_00101001_00000000) = some .dispon := by decide
theorem test_txn_dispoff : decodeTxn ex (txnOfTableWord ex 0b0_00000010_00000000_00101000_00000000) = some .dispoff := by decide
theorem test_txn_bright : decodeTxn ex ⟨.single, 0x02, 0x005100, 0, [0xFF]⟩ = some (.bright 0xFF) := by decide
theorem test_txn_madctl : decodeTxn ex ⟨.single, 0x02, 0x003600, 0, [0x60]⟩ = some (.madctl 0x60) := by decide
theorem test_txn_caset :
    decodeTxn ex ⟨.single, 0x02, 0x002A00, 0, [0x12, 0x34, 0xFF, 0xFF]⟩ = some (.caset 0x1234 0xFFFF) := by decide
theorem test_txn_raset :
    decodeTxn ex ⟨.single, 0x02, 0x002B00, 0, [0x00, 0x00, 0x02, 0x57]⟩ = some (.raset 0 599) := by decide
theorem test_txn_ramwr : decodeTxn ex (txnOfTableWord ex 0b1_00110010_00000000_00101100_00000000) = some (.ramwr [0]) := by decide
theorem test_txn_ramwrc : decodeTxn ex (txnOfTableWord ex 0b1_00110010_00000000_00111100_00000000) = some (.ramwrc [0]) := by decide
theorem test_txn_mfrEntry : decodeTxn ex ⟨.single, 0x02, 0x00FE00, 0, [0x00]⟩ = some (.mfrEntry 0xFE [0x00]) := by decide

/-- R113: each pattern the block never emits is no row. -/
theorem test_txn_never :
    decodeTxn ex ⟨.single, 0x02, 0x010000, 0, []⟩ = none ∧ decodeTxn ex ⟨.single, 0x02, 0x001101, 0, []⟩ = none ∧
    decodeTxn ex ⟨.single, 0x02, 0x001100, 1, []⟩ = none ∧ decodeTxn ex ⟨.single, 0x32, 0x002C00, 0, [0]⟩ = none ∧
    decodeTxn ex ⟨.quad, 0x02, 0x001100, 0, []⟩ = none ∧ decodeTxn ex ⟨.quad, 0x32, 0x002C00, 0, []⟩ = none ∧
    decodeTxn ex ⟨.quad, 0x32, 0x002C00, 0, List.replicate 17 0⟩ = none ∧
    decodeTxn ex ⟨.quad, 0x32, 0x002A00, 0, [0]⟩ = none := by decide

/-! ### One step of each request, with the results of spec/95_test_vectors.md -/

/-- The bytes `[a, a + n)` of the framebuffer after a step. -/
def fbBytes (s : State) (a n : Nat) : Option Bytes := s.fb.map fun m => Memory.readBytes m a n

/-- V-L1: the actions of a CONSTRUCT. -/
theorem test_construct_actions : after (exec .construct off) (fun t => decide (t.phase = .constructing ∧ t.busy = true ∧
    t.seq.list = [.rst .low, .dly 10, .rst .high, .dly 120, .tx ⟨.single, 0x02, 0x001100, 0, []⟩, .dly 120,
      .tx ⟨.single, 0x02, 0x00FE00, 0, [0x00]⟩, .tx ⟨.single, 0x02, 0x003A00, 0, [0x77]⟩,
      .tx ⟨.single, 0x02, 0x003400, 0, []⟩, .tx ⟨.single, 0x02, 0x002900, 0, []⟩, .dly 20,
      .tx ⟨.single, 0x02, 0x005100, 0, [0xFF]⟩])) = true := by decide

/-- V-E4: CONSTRUCT in READY. -/
theorem test_construct_refused : refusal (exec .construct idle) = some (.notAdmitted .ready) := by decide

/-- V-L5: RESET is entries 0 to 3 of V-L1. -/
theorem test_reset_actions : after (exec .reset idle) (fun t => decide (t.phase = .ready ∧
    t.seq.list = [.rst .low, .dly 10, .rst .high, .dly 120])) = true := by decide

/-- V-L3: INIT is entries 4 to 11 of V-L1. -/
theorem test_init_actions : after (exec .init idle) (fun t => decide (t.phase = .ready ∧
    t.seq.list = [.tx ⟨.single, 0x02, 0x001100, 0, []⟩, .dly 120, .tx ⟨.single, 0x02, 0x00FE00, 0, [0x00]⟩,
      .tx ⟨.single, 0x02, 0x003A00, 0, [0x77]⟩, .tx ⟨.single, 0x02, 0x003400, 0, []⟩,
      .tx ⟨.single, 0x02, 0x002900, 0, []⟩, .dly 20, .tx ⟨.single, 0x02, 0x005100, 0, [0xFF]⟩])) = true := by decide

/-- V-F1, V-F2: the first and the last pixel. -/
theorem test_writePixel_inside :
    after (exec (.writePixel 0 0 0xFF 0x00 0x00) idle) (fun t => fbBytes t 0 3 = some [0xFF, 0x00, 0x00]) = true ∧
    after (exec (.writePixel 3 2 0x00 0x00 0xFF) idle) (fun t => fbBytes t 33 3 = some [0x00, 0x00, 0xFF]) = true := by
  decide

/-- V-F4 to V-F7: clipped on every side. -/
theorem test_writePixel_clipped :
    [((0xFFFFFFFF : Word), (0 : Word)), (4, 0), (0, 3), (0x7FFFFFFF, 0), (0x80000000, 0), (0, 0xFFFFFFFF)].all (fun p =>
      after (exec (.writePixel p.1 p.2 0xFF 0xFF 0xFF) idle)
        (fun t => decide (t.fb = some pixels ∧ t.res = ⟨.ok, .none, 0, 0⟩ ∧ t.busy = false))) = true := by decide

/-- V-F9. -/
theorem test_getSize : after (exec .getSize idle) (fun t => t.res = ⟨.ok, .none, 4, 3⟩) = true := by decide

/-- V-F10. -/
theorem test_fbSize : [(ColorMode.rgb565, (24 : Word)), (.rgb888, 36), (.rgb666, 36), (.gray8, 12)].all (fun p =>
    after (exec (.fbSize p.1) idle) (fun t => t.res = ⟨.ok, .none, p.2, 0⟩)) = true := by decide

/-- V-F11: the largest size needs two words. -/
theorem test_fbSize_wide : sizeLow (Cfg.fblenOf { ex with w := 65535, h := 65535 } .rgb888) = 0xFFFA0003 ∧
    sizeHigh (Cfg.fblenOf { ex with w := 65535, h := 65535 } .rgb888) = 2 := by decide

/-- V-F8: the later write of a sequence wins, and a pixel outside is clipped. -/
theorem test_drawIter :
    after (exec (.drawIter [⟨2, 1, 0x01, 0x02, 0x03⟩, ⟨2, 1, 0x0A, 0x0B, 0x0C⟩, ⟨9, 9, 0xFF, 0xFF, 0xFF⟩]) idle)
      (fun t => fbBytes t 18 3 = some [0x0A, 0x0B, 0x0C]) = true := by decide

/-- V-FL1: five transactions. -/
theorem test_flushFull : after (exec .flushFull idle) (fun t => decide (t.seq.list =
    [.tx ⟨.single, 0x02, 0x002A00, 0, [0, 0, 0, 3]⟩, .tx ⟨.single, 0x02, 0x002B00, 0, [0, 0, 0, 2]⟩,
      .tx ⟨.quad, 0x32, 0x002C00, 0, [0, 0, 0, 0, 0, 0, 0, 0, 0, 0, 0, 0, 0, 0, 0, 0x10]⟩,
      .tx ⟨.quad, 0x32, 0x003C00, 0, [0x20, 0x30, 0x40, 0x50, 0x60, 0, 0, 0, 0, 0, 0, 0, 0, 0, 0, 0]⟩,
      .tx ⟨.quad, 0x32, 0x003C00, 0, [0, 0, 0, 0]⟩])) = true := by decide

/-- V-FL2, V-FL8, V-FL11 and V-FL12: the bytes a partial flush sends, with row spill and with another mode. -/
theorem test_flushPartial_accepted :
    after (exec (.flushPartial 1 2 1 1 .rgb888) idle) (fun t => decide (t.seq.list =
      [.tx ⟨.single, 0x02, 0x002A00, 0, [0, 1, 0, 2]⟩, .tx ⟨.single, 0x02, 0x002B00, 0, [0, 1, 0, 1]⟩,
        .tx ⟨.quad, 0x32, 0x002C00, 0, [0x10, 0x20, 0x30, 0x40, 0x50, 0x60]⟩])) = true ∧
    after (exec (.flushPartial 0 5 1 1 .rgb888) idle) (fun t => pixelPayloads t.seq.list =
      [[0, 0, 0, 0x10, 0x20, 0x30, 0x40, 0x50, 0x60, 0, 0, 0, 0, 0, 0, 0], [0, 0]]) = true ∧
    after (exec (.flushPartial 0 1 1 1 .gray8) idle) (fun t => pixelPayloads t.seq.list = [[0, 0]]) = true ∧
    after (exec (.flushPartial 0 3 2 2 .rgb565) idle) (fun t => pixelPayloads t.seq.list =
      [[0x20, 0x30, 0x40, 0x50, 0x60, 0, 0, 0]]) = true := by decide

/-- V-FL3 to V-FL7 and V-FL15: each check of a partial flush. -/
theorem test_flushPartial_rejected :
    [((2 : Half), (1 : Half), (0 : Half), (0 : Half)), (0, 0, 2, 1), (0, 6, 0, 0), (0, 3, 0, 3), (0, 5, 2, 2),
      (0xFFFF, 0xFFFF, 0, 0)].all (fun w =>
      after (exec (.flushPartial w.1 w.2.1 w.2.2.1 w.2.2.2 .rgb888) idle) (fun t => decide (t.busy = false ∧
        t.res = ⟨.invalidConfiguration, .none, 0, 0⟩ ∧ t.trace = [] ∧ t.gwin = .rect ⟨1, 1, 2, 1⟩))) = true := by decide

/-- V-L6, V-L9: the bare control commands. -/
theorem test_power :
    after (exec .sleepIn idle) (fun t => t.seq.list = [.tx ⟨.single, 0x02, 0x001000, 0, []⟩]) = true ∧
    after (exec .sleepOut idle) (fun t => t.seq.list = [.tx ⟨.single, 0x02, 0x001100, 0, []⟩]) = true ∧
    after (exec .displayOn idle) (fun t => t.seq.list = [.tx ⟨.single, 0x02, 0x002900, 0, []⟩]) = true ∧
    after (exec .displayOff idle) (fun t => t.seq.list = [.tx ⟨.single, 0x02, 0x002800, 0, []⟩]) = true := by decide

/-- V-L7: SLEEP_OUT with a settle delay. -/
theorem test_sleepOut_delay : after (exec .sleepOut { idle with cfg := ⟨{ ex with tOpSlpout := 120 }, by decide⟩ })
    (fun t => t.seq.list = [.tx ⟨.single, 0x02, 0x001100, 0, []⟩, .dly 120]) = true := by decide

/-- V-L10, V-L11: the control commands with data. -/
theorem test_registers :
    after (exec (.setMadctl 0x60) idle) (fun t => t.seq.list = [.tx ⟨.single, 0x02, 0x003600, 0, [0x60]⟩]) = true ∧
    after (exec (.setBrightness 0x00) idle) (fun t => t.seq.list = [.tx ⟨.single, 0x02, 0x005100, 0, [0x00]⟩]) = true := by
  decide

/-- V-L13, V-L14: coordinates high byte first, an inverted window too. -/
theorem test_setWindow :
    after (exec (.setWindow 0x1234 0 0xFFFF 0) idle) (fun t => t.seq.list =
      [.tx ⟨.single, 0x02, 0x002A00, 0, [0x12, 0x34, 0xFF, 0xFF]⟩,
        .tx ⟨.single, 0x02, 0x002B00, 0, [0, 0, 0, 0]⟩]) = true ∧
    after (exec (.setWindow 3 2 1 0) idle) (fun t => t.seq.list =
      [.tx ⟨.single, 0x02, 0x002A00, 0, [0, 3, 0, 1]⟩, .tx ⟨.single, 0x02, 0x002B00, 0, [0, 2, 0, 0]⟩]) = true := by decide

/-- R128: FULL_WINDOW is `SET_WINDOW 0, 0, 3, 2`. -/
theorem test_fullWindow : after (exec .fullWindow idle) (fun t => decide (t.seq.window = some ⟨0, 0, 3, 2⟩ ∧
    t.req = ⟨0x00000036, 0, 0, 3, 2⟩)) = true := by decide

/-- V-E3: any request but CONSTRUCT is refused before a construction. -/
theorem test_not_admitted : refusal (step (asked off ⟨0x00000010, 0, 0, 0x00112233, 0⟩)) = some (.notAdmitted .powerOn) := by
  decide

/-- The host's entry: a request, and a transaction as the table numbers it, run as the very next step. -/
theorem test_withFetchWord :
    after (step (off.withFetchWord 32 0x00000030)) (fun t => t.busy) = true ∧
    after (step ((answered off [.ok] []).withFetchWord 33 0b0_00000010_00000000_00010001_00000000))
      (fun t => decide (t.trace = [.tx (control 0x11 []) .ok])) = true := by decide

/-! ### One step of each transaction -/

/-- Each row of the table, run as the sequencer's current action, puts its transaction into the trace (R141). -/
theorem test_rows_emit :
    [(Instr.slpout, control 0x11 []), (.slpin, control 0x10 []), (.colmod, control 0x3A [0x77]), (.teoff, control 0x34 []),
      (.dispon, control 0x29 []), (.dispoff, control 0x28 []), (.bright 0xFF, control 0x51 [0xFF]),
      (.madctl 0x60, control 0x36 [0x60]), (.caset 0 449, control 0x2A [0x00, 0x00, 0x01, 0xC1]),
      (.raset 0 599, control 0x2B [0x00, 0x00, 0x02, 0x57]), (.ramwr [0x10], burst 0x2C [0x10]),
      (.ramwrc [0x20], burst 0x3C [0x20]), (.mfrEntry 0xFE [0x00], control 0xFE [0x00])].all (fun p =>
      after (exec p.1 (answered (sending p.2) [.ok] [])) (fun t => decide (t.trace = [.tx p.2 .ok] ∧ t.busy = false ∧
        t.res = ⟨.ok, .none, 0, 0⟩))) = true := by decide

/-- A row out of turn is refused (R80, R128). -/
theorem test_out_of_turn : refusal (exec .slpout idle) = some .notCurrent ∧
    refusal (exec .slpin (sending (control 0x11 []))) = some .notCurrent := by decide

/-- V-FL13: the first transaction answers `Err`. -/
theorem test_transaction_error : after (step (answered (flushing 0) [.err terr] [])) (fun t => decide (t.busy = false ∧
    t.res = ⟨.interfaceError, .transport terr, 0, 0⟩ ∧ t.gwin = .unknown ∧ t.fb = some pixels ∧ t.phase = .ready)) = true := by
  decide

/-- V-P12: the first reset action answers `Err`; the construction fails. -/
theorem test_reset_error : after (step (answered (constructing 0) [] [.err rerr])) (fun t => decide (t.phase = .failed ∧
    t.fb = none ∧ t.res = ⟨.resetError, .resetLine rerr, 0, 0⟩ ∧ t.trace = [.rst .low (.err rerr)])) = true := by decide

/-- Program 3, request 1 (R210, R215): COLMOD of a construction answers `Err`, and no framebuffer remains. -/
theorem test_construct_error : after (step (answered (constructing 7) [.err terr] [])) (fun t => decide (t.busy = false ∧
    t.phase = .failed ∧ t.fb = none ∧ t.res = ⟨.interfaceError, .transport terr, 0, 0⟩)) = true := by decide

/-- Program 4, request 4 (R300): RST(LOW) of a RESET of READY answers `Err`, and the framebuffer is as it was. -/
theorem test_reset_error_ready : after (step (answered (during opReset (resetSequence ex) 0 none) [] [.err rerr]))
    (fun t => decide (t.busy = false ∧ t.phase = .ready ∧ t.fb = some pixels ∧ t.gwin = .unknown ∧
      t.res = ⟨.resetError, .resetLine rerr, 0, 0⟩)) = true := by decide

/-- V-L1: the last action of a CONSTRUCT answers `Ok`. -/
theorem test_construct_completes : after (step (answered (constructing 11) [.ok] [])) (fun t => decide (t.phase = .ready ∧
    t.busy = false ∧ t.gwin = .unknown ∧ t.trace = [.tx (control 0x51 [0xFF]) .ok])) = true := by decide

/-! ### Witnesses: states that meet the hypotheses of each statement -/

theorem read_pixels {a : Nat} (h : 36 ≤ a) : Memory.read pixels a = 0 := by
  simp only [pixels, Memory.read]
  repeat rw [if_neg (by omega)]

theorem fb_pixels {m : Memory} (h : some pixels = some m) : Memory.wf m = true ∧ ∀ a, ex.fblen ≤ a → Memory.read m a = 0 := by
  cases h
  exact ⟨by decide, fun a ha => read_pixels ha⟩

theorem inv_off : off.Inv :=
  ⟨fun _ h => (nomatch h), ⟨fun _ => .inl rfl, fun _ => rfl⟩, fun _ => rfl, fun h => (nomatch h), fun h => (nomatch h),
    fun h => (nomatch h)⟩

theorem inv_idle : idle.Inv :=
  ⟨fun _ h => fb_pixels h, ⟨fun h => (nomatch h), fun h => by revert h; decide⟩, fun _ => rfl, fun h => (nomatch h),
    fun h => (nomatch h), fun h => (nomatch h)⟩

/-- A construction under EX has twelve actions (V-L1). -/
theorem inv_constructing {k : Nat} (h : k < 12) : (constructing k).Inv := by
  have hp : constructPhase k ≠ .powerOn ∧ constructPhase k ≠ .failed := by
    unfold constructPhase; constructor <;> (repeat' split) <;> decide
  refine ⟨fun _ h => fb_pixels h, ⟨fun h => (nomatch h), fun h => ?_⟩, fun h => (nomatch h), fun _ => ⟨?_, ?_⟩,
    fun _ => .inl ⟨rfl, rfl, rfl⟩, fun _ => .inl ⟨rfl, ?_⟩⟩
  · exact h.elim (fun h => absurd h hp.1) (fun h => absurd h hp.2)
  · show k < (constructActions ex).length
    rw [constructActions_length]
    exact h
  · intro a ha
    rcases List.mem_append.1 ha with h | h
    · exact allowed_resetSequence ex (.inl rfl) a h
    · exact allowed_initSeq ex _ a h
  · show ¬ sendsWindow (some opConstruct)
    unfold sendsWindow; decide

theorem inv_asked {s : State} (h : s.Inv) (q : Req) : (asked s q).Inv := h

theorem inv_answered {s : State} (h : s.Inv) (t : List (Resp TErr)) (r : List (Resp RErr)) : (answered s t r).Inv := h

/-- The invariant of a request of READY in progress, from what its list must be. -/
theorem inv_during {op : Byte} {list : List Action} {k : Nat} {window : Option Rect} (ho : op ≠ opConstruct)
    (hk : k < list.length) (ha : ∀ a ∈ list, allowed ex (some op) a)
    (hw : (window = none ∧ ¬ sendsWindow (some op)) ∨
      (sendsWindow (some op) ∧ ∃ r rest, window = some r ∧ list = windowActions ex r ++ rest)) :
    (during op list k window).Inv :=
  ⟨fun _ h => fb_pixels h, ⟨fun h => (nomatch h), fun h => absurd h (show ¬ (Phase.ready = .powerOn ∨ Phase.ready = .failed) by decide)⟩,
    fun h => (nomatch h), fun _ => ⟨hk, ha⟩, fun _ => .inr ⟨fun h => ho (Option.some.inj h), rfl⟩, fun _ => hw⟩

theorem inv_sending {cmd : Byte} {data : Bytes} (h : (decodeCommand ex cmd data).isSome) :
    (sending (txnCommand ex cmd data)).Inv :=
  inv_during (by decide) (by show 0 < 1; decide) (fun a ha => by rw [List.mem_singleton.1 ha]; exact allowed_command h)
    (.inl ⟨rfl, by unfold sendsWindow; decide⟩)

theorem inv_flushing {k : Nat} (h : k < 5) : (flushing k).Inv := by
  refine inv_during (by decide) h (fun a ha => ?_) (.inr ⟨.inr (.inl rfl), _, _, rfl, rfl⟩)
  rcases List.mem_append.1 ha with h | h
  · exact allowed_windowActions ex _ _ a h
  · exact allowed_sendPixels _ _ (by decide) a h

/-- A RESET of READY in progress, at action `k`. -/
def resetting (k : Nat) : State := during 0x02 (resetSequence ex) k none

theorem inv_resetting {k : Nat} (h : k < 4) : (resetting k).Inv :=
  inv_during (by decide) h (allowed_resetSequence ex (.inr rfl)) (.inl ⟨rfl, by unfold sendsWindow; decide⟩)

/-- A SET_WINDOW of READY in progress, at action `k`. -/
def windowing (k : Nat) : State := during 0x36 (windowActions ex ⟨0, 0, 3, 2⟩) k (some ⟨0, 0, 3, 2⟩)

theorem inv_windowing {k : Nat} (h : k < 2) : (windowing k).Inv :=
  inv_during (by decide) h (allowed_windowActions ex _ _) (.inr ⟨.inl rfl, _, [], rfl, (List.append_nil _).symm⟩)

theorem witness_OnlyWellFormedConfigurationsInstantiate :
    (1 ≤ ex.w.toNat ∧ 1 ≤ ex.h.toNat ∧ 1 ≤ ex.maxChunk ∧ ex.w.toNat * ex.h.toNat * ex.mode.bpp ≤ ex.fbMax ∧
      1 ≤ ex.tInitSlpout ∧ 1 ≤ ex.tInitDispon) ∧
    ∃ c : Cfg, c.maxChunk = 1 ∧ ¬ c.w.toNat * c.h.toNat * c.mode.bpp ≤ c.fbMax :=
  ⟨by decide, { ex with maxChunk := 1, fbMax := 35 }, by decide⟩

/-- Steps of the invariant's states: a request accepted, an action in each construction phase, a completion. -/
theorem witness_StepKeepsInvariant :
    ((asked off ⟨1, 0, 0, 0, 0⟩).Inv ∧ after (step (asked off ⟨1, 0, 0, 0, 0⟩)) (fun t => t.busy) = true) ∧
    ((constructing 1).Inv ∧ after (step (constructing 1)) (fun t => t.busy) = true) ∧
    ((resetting 3).Inv ∧ after (step (resetting 3)) (fun t => !t.busy) = true) :=
  ⟨⟨inv_off, by decide⟩, ⟨inv_constructing (by decide), by decide⟩, ⟨inv_resetting (by decide), by decide⟩⟩

theorem witness_StepNeverFaults : (asked idle ⟨0x00000010, 3, 2, 0x000000FF, 0⟩).Inv := inv_idle

theorem witness_BusyStepAlwaysGoesOn : (flushing 4).Inv ∧ (flushing 4).busy = true := ⟨inv_flushing (by decide), rfl⟩

theorem witness_ConfigurationNeverChanges :
    after (step (constructing 1)) (fun t => decide (t.seq.k = 2)) = true := by decide

/-- One state for each row of R32's table, an error in each construction phase, and both outcomes at a last action. -/
theorem witness_PhaseChangesOnlyByTheTable :
    ((asked off ⟨1, 0, 0, 0, 0⟩).Inv ∧ after (step (asked off ⟨1, 0, 0, 0, 0⟩)) (fun t => decide (t.phase = .constructing ∧ t.busy = true)) = true) ∧
    ((answered (constructing 0) [] [.ok]).Inv ∧ after (step (answered (constructing 0) [] [.ok])) (fun t => decide (t.phase = .reset)) = true) ∧
    ((answered (constructing 0) [] [.err rerr]).Inv ∧ after (step (answered (constructing 0) [] [.err rerr])) (fun t => decide (t.phase = .failed)) = true) ∧
    ((constructing 1).Inv ∧ after (step (constructing 1)) (fun t => decide (t.phase = .reset)) = true) ∧
    ((constructing 3).Inv ∧ after (step (constructing 3)) (fun t => decide (t.phase = .initializing)) = true) ∧
    ((answered (constructing 2) [] [.err rerr]).Inv ∧ after (step (answered (constructing 2) [] [.err rerr])) (fun t => decide (t.phase = .failed)) = true) ∧
    ((answered (constructing 4) [.err terr] []).Inv ∧ after (step (answered (constructing 4) [.err terr] [])) (fun t => decide (t.phase = .failed)) = true) ∧
    ((answered (constructing 11) [.ok] []).Inv ∧ after (step (answered (constructing 11) [.ok] [])) (fun t => decide (t.phase = .ready)) = true) ∧
    ((answered (flushing 0) [.err terr] []).Inv ∧ after (step (answered (flushing 0) [.err terr] [])) (fun t => decide (t.res.status = .interfaceError)) = true) :=
  ⟨⟨inv_off, by decide⟩,
    ⟨inv_answered (inv_constructing (by decide)) _ _, by decide⟩,
    ⟨inv_answered (inv_constructing (by decide)) _ _, by decide⟩,
    ⟨inv_constructing (by decide), by decide⟩,
    ⟨inv_constructing (by decide), by decide⟩,
    ⟨inv_answered (inv_constructing (by decide)) _ _, by decide⟩,
    ⟨inv_answered (inv_constructing (by decide)) _ _, by decide⟩,
    ⟨inv_answered (inv_constructing (by decide)) _ _, by decide⟩,
    ⟨inv_answered (inv_flushing (by decide)) _ _, by decide⟩⟩

theorem fault_of_isFault {o : Out} (h : (match o with | .fault _ => true | _ => false) = true) : ∃ f, o = .fault f := by
  cases o with
  | next t => cases h
  | fault f => exact ⟨f, rfl⟩
  | refused r => cases h

/-- A next state, a fault (in a state no run reaches) and a refusal. -/
theorem witness_WindowGhostIsNeverRead :
    after (step (answered (flushing 0) [.ok] [])) (fun _ => true) = true ∧
    (∃ f, step (asked { idle with fb := none } ⟨0x00000010, 0, 0, 0, 0⟩) = .fault f) ∧
    refusal (step (asked idle ⟨0x00000001, 0, 0, 0, 0⟩)) = some (.notAdmitted .ready) :=
  ⟨by decide, fault_of_isFault (by decide), by decide⟩

/-- A step within a request, a request without an external action, and each way a request completes. -/
theorem witness_WindowGhostFollowsCompletions :
    (idle.busy = false ∧ (resetting 3).busy = true ∧ (resetting 3).seq.op = some opReset ∧ (windowing 1).busy = true) ∧
    sendsWindow (windowing 1).seq.op ∧
    (¬ sendsWindow (sending (txnCommand ex 0x36 [0x60])).seq.op) ∧
    ((answered (windowing 0) [.ok] []).Inv ∧ after (step (answered (windowing 0) [.ok] [])) (fun t => decide (t.busy = true)) = true) ∧
    ((asked idle ⟨0x00000011, 0, 0, 0, 0⟩).Inv ∧ after (step (asked idle ⟨0x00000011, 0, 0, 0, 0⟩)) (fun t => decide (t.busy = false)) = true) ∧
    ((resetting 3).Inv ∧ after (step (resetting 3)) (fun t => decide (t.busy = false)) = true) ∧
    ((answered (windowing 1) [.err terr] []).Inv ∧ after (step (answered (windowing 1) [.err terr] [])) (fun t => decide (t.busy = false ∧ t.res.status = .interfaceError)) = true) ∧
    ((answered (windowing 1) [.ok] []).Inv ∧ after (step (answered (windowing 1) [.ok] [])) (fun t => decide (t.busy = false ∧ t.res.status = .ok)) = true) ∧
    ((answered (sending (txnCommand ex 0x36 [0x60])) [.ok] []).Inv ∧ after (step (answered (sending (txnCommand ex 0x36 [0x60])) [.ok] [])) (fun t => decide (t.busy = false ∧ t.res.status = .ok)) = true) :=
  ⟨by decide,
    .inl rfl,
    by unfold sendsWindow; decide,
    ⟨inv_answered (inv_windowing (by decide)) _ _, by decide⟩,
    ⟨inv_idle, by decide⟩,
    ⟨inv_resetting (by decide), by decide⟩,
    ⟨inv_answered (inv_windowing (by decide)) _ _, by decide⟩,
    ⟨inv_answered (inv_windowing (by decide)) _ _, by decide⟩,
    ⟨inv_answered (inv_sending (by decide)) _ _, by decide⟩⟩

/-- A step at each kind of action, and one with no request in progress. -/
theorem witness_TraceGetsOneEntryPerExternalAction :
    ((flushing 0).current = some (.tx (control 0x2A [0, 0, 0, 3])) ∧
      after (step (answered (flushing 0) [.ok] [])) (fun _ => true) = true) ∧
    ((resetting 2).current = some (.rst .high) ∧ after (step (answered (resetting 2) [] [.ok])) (fun _ => true) = true) ∧
    ((resetting 3).current = some (.dly 120) ∧ after (step (resetting 3)) (fun _ => true) = true) ∧
    ((during 0x10 [.fbw 33 [0, 0, 0xFF]] 0 none).current = some (.fbw 33 [0, 0, 0xFF]) ∧
      after (step (during 0x10 [.fbw 33 [0, 0, 0xFF]] 0 none)) (fun _ => true) = true) ∧
    (idle.current = none ∧ after (step (asked idle ⟨0x00000020, 0, 0, 0, 0⟩)) (fun _ => true) = true) := by decide

/-- A control and a pixel transaction, under two opcodes that differ. -/
theorem witness_ReservedTransactionPatternsNeverEmitted :
    ex.ctrlOpcode ≠ ex.pixelOpcode ∧
    ((answered (flushing 1) [.ok] []).Inv ∧ after (step (answered (flushing 1) [.ok] []))
      (fun t => decide (t.trace = [.tx (control 0x2B [0, 0, 0, 2]) .ok])) = true) ∧
    ((answered (flushing 4) [.ok] []).Inv ∧ after (step (answered (flushing 4) [.ok] []))
      (fun t => decide (t.trace = [.tx (burst 0x3C [0, 0, 0, 0]) .ok])) = true) :=
  ⟨by decide, ⟨inv_answered (inv_flushing (by decide)) _ _, by decide⟩,
    ⟨inv_answered (inv_flushing (by decide)) _ _, by decide⟩⟩

theorem witness_ResultIsWrittenOnlyAtCompletion :
    after (step (answered (flushing 0) [.ok] [])) (fun t => t.busy) = true := by decide

theorem witness_OnlyWritePixelChangesTheFramebuffer :
    (asked idle ⟨0x00000010, 0, 0, 0x00FF0000, 0⟩).Inv ∧ idle.phase = .ready ∧
    after (step (asked idle ⟨0x00000010, 0, 0, 0x00FF0000, 0⟩)) (fun t => decide (t.fb ≠ idle.fb)) = true :=
  ⟨inv_idle, rfl, by decide⟩

/-- A reset action of each request that has one, answered `Err`, and an idle state that keeps such a result. -/
theorem witness_ResetErrorOnlyFromConstructAndReset :
    ((constructing 0).current = some (.rst .low) ∧ (resetting 2).current = some (.rst .high) ∧ (constructing 0).busy = true ∧
      (resetting 2).busy = true ∧ idle.busy = false) ∧
    ((answered (constructing 0) [] [.err rerr]).Inv ∧ after (step (answered (constructing 0) [] [.err rerr])) (fun t => decide (t.busy = false ∧ t.res.status = .resetError)) = true) ∧
    ((answered (resetting 2) [] [.err rerr]).Inv ∧ after (step (answered (resetting 2) [] [.err rerr])) (fun t => decide (t.busy = false ∧ t.res.status = .resetError)) = true) ∧
    ((asked { idle with res := ⟨.resetError, .resetLine rerr, 0, 0⟩ } ⟨0x00000020, 0, 0, 0, 0⟩).Inv ∧ after (step (asked { idle with res := ⟨.resetError, .resetLine rerr, 0, 0⟩ } ⟨0x00000020, 0, 0, 0, 0⟩)) (fun t => decide (t.res.status = .resetError)) = true) :=
  ⟨by decide,
    ⟨inv_answered (inv_constructing (by decide)) _ _, by decide⟩,
    ⟨inv_answered (inv_resetting (by decide)) _ _, by decide⟩,
    ⟨inv_idle, by decide⟩⟩

theorem witness_FailedConstructionLeavesNoDriver :
    (answered (constructing 11) [.err terr] []).Inv ∧
    after (step (answered (constructing 11) [.err terr] [])) (fun t => decide (t.busy = false ∧ t.res.status ≠ .ok)) = true ∧
    (constructing 11).busy = true ∧ (constructing 11).seq.op = some opConstruct ∧
    encodeReq .getSize = some ⟨0x00000011, 0, 0, 0, 0⟩ :=
  ⟨inv_answered (inv_constructing (by decide)) _ _, by decide, rfl, rfl, by decide⟩

theorem witness_UnassignedOpcodesRefused :
    (idle.busy = false ∧ (asked idle ⟨0x37, 0, 0, 0, 0⟩).env.host = [⟨0x37, 0, 0, 0, 0⟩]) ∧
    ∀ op ∈ [0x00#8, 0x04#8, 0x13#8, 0x22#8, 0x37#8, 0xFF#8], op ∉ [0x01#8, 0x02#8, 0x03#8, 0x10#8, 0x11#8, 0x12#8, 0x20#8,
      0x21#8, 0x30#8, 0x31#8, 0x32#8, 0x33#8, 0x34#8, 0x35#8, 0x36#8] := by decide

/-- V-E7 to V-E11, one request for each clause, and an unused word that does not matter. -/
theorem witness_ReservedBitsRefused :
    (idle.busy = false ∧ (asked idle ⟨0x00000410, 0, 0, 0, 0⟩).env.host = [⟨0x00000410, 0, 0, 0, 0⟩]) ∧
    (⟨0x80000010, 0, 0, 0, 0⟩ : Req).h.extractLsb' 10 22 ≠ 0 ∧
    (⟨0x00000110, 0, 0, 0, 0⟩ : Req).modeArg ≠ 0 ∧ (⟨0x00000110, 0, 0, 0, 0⟩ : Req).op ≠ opFbSize ∧
    (⟨0x00000110, 0, 0, 0, 0⟩ : Req).op ≠ opFlushPartial ∧
    (⟨0x00000010, 0, 0, 0x01112233, 0⟩ : Req).c.extractLsb' 24 8 ≠ 0 ∧
    (⟨0x00000035, 0x00000100, 0, 0, 0⟩ : Req).a.extractLsb' 8 24 ≠ 0 ∧
    (⟨0x00000121, 0x00010000, 1, 0, 0⟩ : Req).a.extractLsb' 16 16 ≠ 0 ∧
    (⟨0x00000036, 0, 0, 0, 0x80000000⟩ : Req).d.extractLsb' 16 16 ≠ 0 ∧
    decodeReq ⟨0x00000034, 0x60, 0, 0, 0⟩ = .ok (.setMadctl 0x60) ∧
    decodeReq ⟨0x00000034, 0x60, 0xFFFFFFFF, 0, 0⟩ = .ok (.setMadctl 0x60) := by decide

theorem witness_PhaseAdmission :
    (idle.busy = false ∧ idle.phase ≠ .powerOn ∧ idle.phase ≠ .failed ∧ encodeReq .construct = some ⟨1, 0, 0, 0, 0⟩) ∧
    (off.busy = false ∧ off.phase ≠ .ready ∧ encodeReq .flushFull = some ⟨0x20, 0, 0, 0, 0⟩) := by decide

theorem witness_NoRequestIsAcceptedWhileBusy :
    (flushing 0).busy = true ∧ after (step (answered (asked (flushing 0) ⟨1, 0, 0, 0, 0⟩) [.ok] [])) (fun _ => true) = true ∧
    encodeReq .reset = some ⟨2, 0, 0, 0, 0⟩ := by decide

theorem witness_StepRunsTheNextRequest :
    idle.busy = false ∧ (asked idle ⟨0x00000034, 0x60, 0, 0, 0⟩).env.host = [⟨0x00000034, 0x60, 0, 0, 0⟩] ∧
    decodeReq ⟨0x00000034, 0x60, 0, 0, 0⟩ = .ok (.setMadctl 0x60) := by decide

theorem witness_StepRunsTheCurrentTransaction :
    (flushing 0).current = some (.tx (control 0x2A [0, 0, 0, 3])) ∧
    decodeTxn (flushing 0).c (control 0x2A [0, 0, 0, 3]) = some (.caset 0 3) := by decide

theorem witness_IdleBlockWaits : idle.busy = false ∧ idle.env.host = [] := ⟨rfl, rfl⟩

theorem witness_TransactionDecodingIsExact : decodeTxn ex (burst 0x3C [0x11]) = some (.ramwrc [0x11]) := by decide

/-- Rows at the ends of the table, and the longest chunk. -/
theorem witness_TransactionRoundTrip :
    ex.Distinct ∧ (Instr.wf ex .slpout = true ∧ encodeTxn ex .slpout = some (control 0x11 [])) ∧
    (Instr.wf ex (.ramwr (List.replicate 16 0xFF)) = true ∧
      encodeTxn ex (.ramwr (List.replicate 16 0xFF)) = some (burst 0x2C (List.replicate 16 0xFF))) ∧
    (Instr.wf ex (.mfrEntry 0xFE [0]) = true ∧ encodeTxn ex (.mfrEntry 0xFE [0]) = some (control 0xFE [0])) := by
  unfold Cfg.Distinct; decide

/-- Each row's transaction is the current action of some state. -/
theorem witness_RowsEmitTheirTransactions :
    ∀ x ∈ [control 0x11 [], control 0x10 [], control 0x3A [0x77], control 0x34 [], control 0x29 [], control 0x28 [],
      control 0x51 [0xFF], control 0x36 [0x60], control 0x2A [0, 0, 1, 0xC1], control 0x2B [0, 0, 2, 0x57],
      burst 0x2C [0x10], burst 0x3C [0x20], control 0xFE [0]], (sending x).current = some (.tx x) := by decide

/-- Every row with its transaction current, both answers, a last and an inner action, in and outside a construction. -/
theorem witness_TransactionIsPerformed :
    (∀ p ∈ [(Instr.slpout, control 0x11 []), (.slpin, control 0x10 []), (.colmod, control 0x3A [0x77]),
        (.teoff, control 0x34 []), (.dispon, control 0x29 []), (.dispoff, control 0x28 []), (.bright 0xFF, control 0x51 [0xFF]),
        (.madctl 0x60, control 0x36 [0x60]), (.caset 0 449, control 0x2A [0, 0, 1, 0xC1]),
        (.raset 0 599, control 0x2B [0, 0, 2, 0x57]), (.ramwr [0x10], burst 0x2C [0x10]), (.ramwrc [0x20], burst 0x3C [0x20]),
        (.mfrEntry 0xFE [0], control 0xFE [0])],
      encodeTxn ex p.1 = some p.2 ∧ (sending p.2).current = some (.tx p.2)) ∧
    (answered (flushing 0) [.ok] []).txResponse = .ok ∧ (flushing 0).seq.k + 1 < (flushing 0).seq.list.length ∧
    (flushing 4).seq.list.length ≤ (flushing 4).seq.k + 1 ∧
    (answered (constructing 4) [.err terr] []).txResponse = .err terr ∧ inConstruction (constructing 4).phase = true ∧
    inConstruction (flushing 0).phase = false := by decide

theorem witness_TransactionsNeverRunOutOfTurn :
    (encodeTxn ex .slpout = some (control 0x11 []) ∧ idle.current ≠ some (.tx (control 0x11 []))) ∧
    (encodeTxn ex (.raset 0 2) = some (control 0x2B [0, 0, 0, 2]) ∧
      (flushing 0).current ≠ some (.tx (control 0x2B [0, 0, 0, 2]))) := by decide

/-- Both answers, an inner action and one that ends its list, in and outside a construction. -/
theorem witness_ResetLineIsDriven :
    (answered (resetting 2) [] [.ok]).current = some (.rst .high) ∧ (answered (resetting 2) [] [.ok]).rstResponse = .ok ∧
    (resetting 2).seq.k + 1 < (resetting 2).seq.list.length ∧
    (during 0x02 [.rst .low] 0 none).current = some (.rst .low) ∧
    (during 0x02 [.rst .low] 0 none).seq.list.length ≤ (during 0x02 [.rst .low] 0 none).seq.k + 1 ∧
    (answered (constructing 0) [] [.err rerr]).current = some (.rst .low) ∧
    (answered (constructing 0) [] [.err rerr]).rstResponse = .err rerr ∧ inConstruction (constructing 0).phase = true ∧
    inConstruction (resetting 2).phase = false := by decide

theorem witness_DelayAlwaysCompletes :
    ((resetting 1).current = some (.dly 10) ∧ (resetting 1).seq.k + 1 < (resetting 1).seq.list.length) ∧
    ((resetting 3).current = some (.dly 120) ∧ (resetting 3).seq.list.length ≤ (resetting 3).seq.k + 1) := by decide

/-- A full flush at its first action and a construction at its last, every answer `Ok`. -/
theorem witness_RequestRunsToCompletion :
    (∃ s : State, ∃ e, s.Inv ∧ s.busy = true ∧ s.seq.k = 0 ∧ s.env = okThen (txCount (s.seq.list.drop s.seq.k))
      (rstCount (s.seq.list.drop s.seq.k)) e) ∧
    (∃ s : State, ∃ e, s.Inv ∧ s.busy = true ∧ s.seq.k = 11 ∧ s.env = okThen (txCount (s.seq.list.drop s.seq.k))
      (rstCount (s.seq.list.drop s.seq.k)) e) :=
  ⟨⟨answered (flushing 0) (List.replicate 5 .ok) [], noEnv, inv_answered (inv_flushing (by decide)) _ _, by decide⟩,
    ⟨answered (constructing 11) [.ok] [], noEnv, inv_answered (inv_constructing (by decide)) _ _, by decide⟩⟩

/-- V-P11 in a flush: chunk 1 answers `Err`; and V-L1 at `k = 7`. -/
theorem witness_RequestStopsAtTheFirstError :
    (∃ (s : State) (pre : List Action) (x : Txn) (post : List Action) (err : TErr) (later : List (Resp TErr)) (e : Env),
      s.Inv ∧ s.busy = true ∧ s.seq.list.drop s.seq.k = pre ++ .tx x :: post ∧
      s.env = okThen (txCount pre) (rstCount pre) { e with txAnswers := .err err :: later } ∧
      s.seq.op ≠ some opConstruct ∧ pre.length = 3 ∧ post.length = 1) ∧
    (∃ (s : State) (pre : List Action) (x : Txn) (post : List Action) (err : TErr) (later : List (Resp TErr)) (e : Env),
      s.Inv ∧ s.busy = true ∧ s.seq.list.drop s.seq.k = pre ++ .tx x :: post ∧
      s.env = okThen (txCount pre) (rstCount pre) { e with txAnswers := .err err :: later } ∧
      s.seq.op = some opConstruct ∧ pre.length = 7 ∧ post.length = 4) :=
  ⟨⟨answered (flushing 0) [.ok, .ok, .ok, .err terr] [], (flushing 0).seq.list.take 3,
      burst 0x3C [0x20, 0x30, 0x40, 0x50, 0x60, 0, 0, 0, 0, 0, 0, 0, 0, 0, 0, 0], (flushing 0).seq.list.drop 4, terr, [], noEnv,
      inv_answered (inv_flushing (by decide)) _ _, by decide⟩,
    ⟨answered (constructing 0) [.ok, .ok, .err terr] [.ok, .ok], (constructing 0).seq.list.take 7, control 0x3A [0x77],
      (constructing 0).seq.list.drop 8, terr, [], noEnv, inv_answered (inv_constructing (by decide)) _ _, by decide⟩⟩

/-- V-P13 in a RESET, and V-L1 at `k = 0`. -/
theorem witness_RequestStopsAtTheFirstResetError :
    (∃ (s : State) (pre : List Action) (l : Level) (post : List Action) (err : RErr) (later : List (Resp RErr)) (e : Env),
      s.Inv ∧ s.busy = true ∧ s.seq.list.drop s.seq.k = pre ++ .rst l :: post ∧
      s.env = okThen (txCount pre) (rstCount pre) { e with rstAnswers := .err err :: later } ∧
      s.seq.op ≠ some opConstruct ∧ pre.length = 2) ∧
    (∃ (s : State) (pre : List Action) (l : Level) (post : List Action) (err : RErr) (later : List (Resp RErr)) (e : Env),
      s.Inv ∧ s.busy = true ∧ s.seq.list.drop s.seq.k = pre ++ .rst l :: post ∧
      s.env = okThen (txCount pre) (rstCount pre) { e with rstAnswers := .err err :: later } ∧
      s.seq.op = some opConstruct ∧ pre.length = 0) :=
  ⟨⟨answered (resetting 0) [] [.ok, .err rerr], [.rst .low, .dly 10], .high, [.dly 120], rerr, [], noEnv,
      inv_answered (inv_resetting (by decide)) _ _, by decide⟩,
    ⟨answered (constructing 0) [] [.err rerr], [], .low, (constructing 0).seq.list.drop 1, rerr, [], noEnv,
      inv_answered (inv_constructing (by decide)) _ _, by decide⟩⟩

theorem witness_ConstructReachesReady :
    off.busy = false ∧ (off.phase = .powerOn ∨ off.phase = .failed) ∧
    (answered off (List.replicate 6 .ok) [.ok, .ok]).env = okThen (5 + off.c.mfrInit.length) 2 noEnv := by decide

/-- POWERON, and FAILED for the retry. -/
theorem witness_ConstructIsAccepted :
    (off.busy = false ∧ off.phase = .powerOn) ∧ ({ off with phase := .failed } : State).phase = .failed := by decide

/-- The hypotheses of ResetAndInitAreAccepted, ControlRequestsAreAccepted, SetWindowIsAccepted, GetSizeReportsThePanel
and FbSizeReportsTheExactSize. -/
theorem witness_ready_requests : idle.busy = false ∧ idle.phase = .ready := by decide

/-- Both forms of a control request's list: without and with a settle delay. -/
theorem witness_ControlRequestsAreAccepted :
    idle.c.tOpSlpout = 0 ∧ ∃ s : State, s.busy = false ∧ s.phase = .ready ∧ s.c.tOpSlpout ≠ 0 :=
  ⟨rfl, { idle with cfg := ⟨{ ex with tOpSlpout := 120 }, by decide⟩ }, rfl, rfl, by decide⟩

theorem witness_FramebufferReadAfterWrite :
    Memory.wf pixels = true ∧ ¬ (15 ≤ 18 ∧ 18 < 15 + [(0 : Byte), 0, 0].length) := by decide

theorem witness_FramebufferContentsAreCanonical :
    Memory.wf pixels = true ∧ Memory.wf (Memory.write pixels 15 0x10) = true ∧
    ∀ a, Memory.read pixels a = Memory.read (Memory.write pixels 15 0x10) a :=
  ⟨by decide, by decide, fun _ => rfl⟩

/-- Inside at both corners, and outside just past each edge. -/
theorem witness_WritePixelWritesOrClips :
    (idle.busy = false ∧ idle.phase = .ready ∧ idle.fb = some pixels ∧ Memory.wf pixels = true) ∧
    [((0 : Word), (0 : Word)), (3, 2)].all (fun p => decide (0 ≤ p.1.toInt ∧ p.1.toInt < idle.c.w.toNat ∧ 0 ≤ p.2.toInt ∧
      p.2.toInt < idle.c.h.toNat)) = true ∧
    [((0xFFFFFFFF : Word), (0 : Word)), (4, 0), (0, 3), (0, 0xFFFFFFFF)].all (fun p => decide (¬ (0 ≤ p.1.toInt ∧
      p.1.toInt < idle.c.w.toNat ∧ 0 ≤ p.2.toInt ∧ p.2.toInt < idle.c.h.toNat))) = true := by decide

/-- Two writes to neighbouring pixels, the last row's last column and the one before it. -/
theorem witness_PixelRoundTrip :
    idle.fb = some pixels ∧ Memory.wf pixels = true ∧
    (0 ≤ (3 : Word).toInt ∧ (3 : Word).toInt < idle.c.w.toNat ∧ 0 ≤ (2 : Word).toInt ∧ (2 : Word).toInt < idle.c.h.toNat) ∧
    after (exec (.writePixel 3 2 0xFF 0x80 0x01) idle)
      (fun t => after (exec (.writePixel 2 2 1 2 3) t) fun _ => true) = true ∧
    ((2 : Word) ≠ 3 ∨ (2 : Word) ≠ 2) ∧ (idle.c.mode = .rgb888 ∨ idle.c.mode = .rgb666) := by decide

theorem witness_DrawIterIsItsWritePixels : idle.busy = false := rfl

/-- A sequence that writes one pixel twice: byte 21 is outside of it, and byte 20 is covered last by the second. -/
theorem witness_DrawIterLastWriteWins :
    (idle.busy = false ∧ idle.phase = .ready ∧ idle.fb = some pixels ∧ Memory.wf pixels = true) ∧
    (∀ p ∈ [(⟨2, 1, 1, 2, 3⟩ : Pixel), ⟨2, 1, 0x0A, 0x0B, 0x0C⟩],
      ∀ off v, pixelWrite idle.c p.x p.y p.r p.g p.b = some (off, v) → ¬ (off ≤ 21 ∧ 21 < off + v.length)) ∧
    ([(⟨2, 1, 1, 2, 3⟩ : Pixel), ⟨2, 1, 0x0A, 0x0B, 0x0C⟩] = [⟨2, 1, 1, 2, 3⟩] ++ ⟨2, 1, 0x0A, 0x0B, 0x0C⟩ :: [] ∧
      pixelWrite idle.c 2 1 0x0A 0x0B 0x0C = some (18, [0x0A, 0x0B, 0x0C]) ∧ 18 ≤ 20 ∧
      20 < 18 + [(0x0A : Byte), 0x0B, 0x0C].length) := by
  refine ⟨by decide, fun p hp off v h => ?_, by decide⟩
  rcases List.mem_cons.1 hp with rfl | hp
  · rw [show pixelWrite idle.c 2 1 1 2 3 = some (18, [1, 2, 3]) by decide] at h
    cases h
    decide
  · rw [List.mem_singleton.1 hp, show pixelWrite idle.c 2 1 0x0A 0x0B 0x0C = some (18, [0x0A, 0x0B, 0x0C]) by decide] at h
    cases h
    decide

/-- V-P4 to V-P8: lengths 0, 1, `C`, `C + 1` and `2 C`. -/
theorem witness_BurstIsSplitGreedily :
    1 ≤ ex.maxChunk ∧ ([] : Bytes) = [] ∧ ∀ n ∈ [1, 16, 17, 32], 1 ≤ (List.replicate n (0 : Byte)).length := by decide

theorem witness_FlushFullSendsTheWholeFramebuffer :
    idle.busy = false ∧ idle.phase = .ready ∧ idle.fb = some pixels := ⟨rfl, rfl, rfl⟩

theorem witness_FlushFullTransactionCount : after (exec .flushFull idle) (fun _ => true) = true := by decide

/-- V-FL3 to V-FL7 fail one check each; V-FL2, V-FL8 and V-FL9 pass all of them. -/
theorem witness_FlushPartialSendsTheWindow :
    (idle.busy = false ∧ idle.phase = .ready ∧ idle.fb = some pixels) ∧
    (∀ w ∈ [(⟨2, 0, 1, 0⟩ : Rect), ⟨0, 2, 0, 1⟩, ⟨0, 0, 6, 0⟩, ⟨0, 0, 3, 3⟩, ⟨0, 2, 5, 2⟩],
      ¬ (w.xs.toNat ≤ w.xe.toNat ∧ w.ys.toNat ≤ w.ye.toNat ∧ w.xe.toNat ≤ idle.c.maxColIndex.toNat ∧
        w.ye.toNat + 1 ≤ idle.c.h.toNat ∧ ∀ y, w.ys.toNat ≤ y → y ≤ w.ye.toNat →
          (y * idle.c.w.toNat + w.xs.toNat) * 3 + (w.xe.toNat + 1 - w.xs.toNat) * 3 ≤ idle.c.fblen)) ∧
    (∀ w ∈ [(⟨1, 1, 2, 1⟩ : Rect), ⟨0, 1, 5, 1⟩, ⟨3, 2, 3, 2⟩],
      w.xs.toNat ≤ w.xe.toNat ∧ w.ys.toNat ≤ w.ye.toNat ∧ w.xe.toNat ≤ idle.c.maxColIndex.toNat ∧
        w.ye.toNat + 1 ≤ idle.c.h.toNat ∧ ∀ y, w.ys.toNat ≤ y → y ≤ w.ye.toNat →
          (y * idle.c.w.toNat + w.xs.toNat) * 3 + (w.xe.toNat + 1 - w.xs.toNat) * 3 ≤ idle.c.fblen) := by
  refine ⟨⟨rfl, rfl, rfl⟩, ?_, ?_⟩
  · simp only [List.forall_mem_cons, List.not_mem_nil, false_implies, implies_true, and_true]
    exact ⟨by decide, by decide, by decide, by decide,
      fun h => absurd (h.2.2.2.2 2 (by decide) (by decide)) (by decide)⟩
  · simp only [List.forall_mem_cons, List.not_mem_nil, false_implies, implies_true, and_true]
    refine ⟨⟨by decide, by decide, by decide, by decide, fun y h1 h2 => ?_⟩,
      ⟨by decide, by decide, by decide, by decide, fun y h1 h2 => ?_⟩,
      ⟨by decide, by decide, by decide, by decide, fun y h1 h2 => ?_⟩⟩
    all_goals
      obtain rfl := Nat.le_antisymm h2 h1
      decide

/-- Both outcomes, at the row check's boundary: `ye*W + xe + 1` is 13 and 12 of `W*H = 12`. -/
theorem witness_FlushPartialRejectionSet :
    idle.c.mode = .rgb888 ∧ after (exec (.flushPartial 0 4 2 2 .rgb888) idle) (fun t => !t.busy) = true ∧
    after (exec (.flushPartial 0 3 2 2 .rgb888) idle) (fun t => t.busy) = true := by decide

/-- A full flush and a partial flush of the last pixel, with a pixel number in range. -/
theorem witness_FlushedPixelsLandOnTheirOwnCells :
    idle.fb = some pixels ∧ after (exec .flushFull idle) (fun t => t.busy) = true ∧
    after (exec (.flushPartial 3 3 2 2 idle.c.mode) idle) (fun t => t.busy) = true ∧
    (⟨0, 0, 3, 2⟩ : Rect) = ⟨0, 0, idle.c.w - 1, idle.c.h - 1⟩ ∧ (3 : Half).toNat + 1 ≤ idle.c.w.toNat ∧
    11 < ((3 : Half).toNat + 1 - (0 : Half).toNat) * ((2 : Half).toNat + 1 - (0 : Half).toNat) ∧
    0 < ((3 : Half).toNat + 1 - (3 : Half).toNat) * ((2 : Half).toNat + 1 - (2 : Half).toNat) := by decide

/-- Two states that differ in the window set before and in the latches. -/
theorem witness_FlushIgnoresEarlierWindows :
    idle ≠ { idle with gwin := .unknown } ∧ idle.cfg = ({ idle with gwin := .unknown } : State).cfg ∧
    idle.fb = ({ idle with gwin := .unknown } : State).fb ∧ after (exec .flushFull idle) (fun t => t.busy) = true ∧
    after (exec .flushFull { idle with gwin := .unknown }) (fun _ => true) = true ∧
    after (exec (.flushPartial 1 2 1 1 .rgb888) idle) (fun t => t.busy) = true := by decide

end Sys2Proof.Tests
end

/-! ### Instantiation (spec/00_scope.md R9) -/

namespace Sys2Proof.Machine

/-- The checks of R9, one by one. -/
theorem wf_iff (c : Cfg) :
    c.wf = true ↔ 1 ≤ c.w.toNat ∧ 1 ≤ c.h.toNat ∧ 1 ≤ c.maxChunk ∧ c.w.toNat * c.h.toNat * c.mode.bpp ≤ c.fbMax ∧
      1 ≤ c.tInitSlpout ∧ 1 ≤ c.tInitDispon := by
  simp only [Cfg.wf, Bool.and_eq_true, decide_eq_true_eq, and_assoc]
  exact Iff.rfl

theorem State.instantiate_of_wf {c : Cfg} (h : c.wf = true) : State.instantiate c = some (State.powerOn ⟨c, h⟩) :=
  dif_pos h

theorem State.instantiate_of_not_wf {c : Cfg} (h : ¬ c.wf = true) : State.instantiate c = none := dif_neg h

/-- Settles O2: the checks of R9 are the condition on which `State.instantiate` branches. -/
theorem onlyWellFormedConfigurationsInstantiate : Obligations.OnlyWellFormedConfigurationsInstantiate := by
  intro c
  rw [← wf_iff]
  exact ⟨fun h => ⟨_, State.instantiate_of_wf h, rfl, rfl⟩, State.instantiate_of_not_wf⟩

/-! ### What a step that answers a next state has done -/

/-- The ways in which a step takes `s` to `t`, each with the condition under which the step goes that way. -/
inductive StepNext (s t : State) : Prop where
  | waits (hb : s.busy = false) (hh : s.env.host = []) (ht : t = s)
  | accepts (q : Req) (rest : List Req) (i : Instr) (hb : s.busy = false) (hh : s.env.host = q :: rest)
      (hd : decodeReq q = .ok i) (ht : exec i (s.take q rest) = .next t)
  | transmits (x : Txn) (i : Instr) (hc : s.current = some (.tx x)) (hd : decodeTxn s.c x = some i)
      (ht : exec i s = .next t)
  | drivesReset (l : Level) (hc : s.current = some (.rst l)) (ht : t = s.performRst l)
  | delays (ms : Nat) (hc : s.current = some (.dly ms)) (ht : t = s.performDly ms)
  | writes (off : Nat) (v : Bytes) (hc : s.current = some (.fbw off v)) (ht : s.performFbw off v = .next t)
  | completes (hb : s.busy = true) (hc : s.current = none) (ht : t = s.finish (.ok 0 0))

/-- With no request in progress, a step waits or accepts the host's next request. -/
theorem stepNext_of_idle {s t : State} (hb : s.busy = false) (h : step s = .next t) : StepNext s t := by
  cases hh : s.env.host with
  | nil =>
    rw [step_of_done (o := .next s) (by rw [fetch_idle hb]; simp [fetchRequest, hh])] at h
    exact .waits hb hh (Host.Outcome.next.inj h).symm
  | cons q rest =>
    cases hd : decodeReq q with
    | error e => rw [step_badRequest hb hh hd] at h; cases h
    | ok i =>
      rw [step_of_run (i := i) (t := s.take q rest) (by rw [fetch_idle hb]; simp [fetchRequest, hh, hd])] at h
      exact .accepts q rest i hb hh hd h

/-- With a request in progress, a step performs the current action, or completes the request when there is none. -/
theorem stepNext_of_busy {s t : State} (hb : s.busy = true) (h : step s = .next t) : StepNext s t := by
  cases hc : s.current with
  | none => rw [step_finish hb hc] at h; exact .completes hb hc (Host.Outcome.next.inj h).symm
  | some a =>
    cases a with
    | tx x =>
      cases hd : decodeTxn s.c x with
      | none => rw [step_neverEmitted hc hd] at h; cases h
      | some i =>
        rw [step_of_run (i := i) (t := s) (by rw [fetch_busy hb]; simp [fetchAction, hc, hd])] at h
        exact .transmits x i hc hd h
    | rst l => rw [step_rst hc] at h; exact .drivesReset l hc (Host.Outcome.next.inj h).symm
    | dly ms => rw [step_dly hc] at h; exact .delays ms hc (Host.Outcome.next.inj h).symm
    | fbw off v => rw [step_fbw hc] at h; exact .writes off v hc h

theorem stepNext_of_step {s t : State} (h : step s = .next t) : StepNext s t := by
  cases hb : s.busy with
  | false => exact stepNext_of_idle hb h
  | true => exact stepNext_of_busy hb h

/-! ### The configuration (spec/00_scope.md R7): what each operation answers has the configuration it was given -/

@[simp] theorem State.performDly_cfg (s : State) (ms : Nat) : (s.performDly ms).cfg = s.cfg := State.endAction_cfg _

@[simp] theorem State.performTx_cfg (s : State) (x : Txn) : (s.performTx x).cfg = s.cfg := by
  cases h : s.txResponse with
  | ok => simp [State.performTx_ok x h]
  | err e => simp [State.performTx_err x h]

@[simp] theorem State.performRst_cfg (s : State) (l : Level) : (s.performRst l).cfg = s.cfg := by
  cases h : s.rstResponse with
  | ok => simp [State.performRst_ok l h]
  | err e => simp [State.performRst_err l h]

/-- If the outcome is a next state, that state has the configuration `c`. -/
def KeepsCfg (c : ValidCfg) (o : Out) : Prop := ∀ t, o = .next t → t.cfg = c

namespace KeepsCfg

theorem next {c : ValidCfg} {t : State} (h : t.cfg = c) : KeepsCfg c (.next t) := by
  rintro _ ⟨⟩
  exact h

theorem fault (c : ValidCfg) (f : Fault) : KeepsCfg c (.fault f) := by
  rintro _ ⟨⟩

theorem refused (c : ValidCfg) (r : Refusal) : KeepsCfg c (.refused r) := by
  rintro _ ⟨⟩

theorem request {c : ValidCfg} {s : State} {op : Byte} {o : Out} (h : KeepsCfg c o) : KeepsCfg c (s.request op o) := by
  intro t ht
  obtain ⟨-, -, ho⟩ := State.request_next ht
  exact h t ho

theorem emit (s : State) (x : Txn) : KeepsCfg s.cfg (s.emit x) := by
  intro t ht
  obtain ⟨-, rfl⟩ := State.emit_next ht
  exact s.performTx_cfg x

theorem performFbw (s : State) (off : Nat) (v : Bytes) : KeepsCfg s.cfg (s.performFbw off v) := by
  intro t ht
  obtain ⟨m, -, -, rfl⟩ := State.performFbw_next ht
  exact State.endAction_cfg _

theorem writePixel (s : State) (x y : Word) (r g b : Byte) : KeepsCfg s.cfg (s.writePixel x y r g b) := by
  refine .request ?_
  split
  · exact .next rfl
  · next off v _ => exact performFbw (s.load opWritePixel none [.fbw off v]) off v

/-- By induction on the pixels: DRAW_ITER is a run of pixel writes. -/
theorem drawIter (pixels : List Pixel) (s : State) : KeepsCfg s.cfg (execDrawIter pixels s) := by
  induction pixels generalizing s with
  | nil => exact .next rfl
  | cons p rest ih =>
    rw [execDrawIter]
    split
    · next t ht =>
      have hcfg : t.cfg = s.cfg := (writePixel _ _ _ _ _ _ t ht).trans (s.latch_cfg _)
      exact hcfg ▸ ih t
    · exact .fault _ _
    · exact .refused _ _

theorem flushFull (s : State) : KeepsCfg s.cfg (execFlushFull s) := by
  refine .request ?_
  split
  · exact .fault _ _
  · exact .next rfl

theorem flushPartial (xs xe ys ye : Half) (mode : ColorMode) (s : State) :
    KeepsCfg s.cfg (execFlushPartial xs xe ys ye mode s) := by
  refine .request ?_
  split
  · exact .fault _ _
  · exact .next (by split <;> rfl)

/-- No instruction changes the configuration: a transaction by `State.emit`, a request by what it loads or answers. -/
theorem exec (i : Instr) (s : State) : KeepsCfg s.cfg (exec i s) := by
  cases i with
  | writePixel x y r g b => exact writePixel s x y r g b
  | drawIter pixels => exact drawIter pixels s
  | flushFull => exact flushFull s
  | flushPartial xs xe ys ye mode => exact flushPartial xs xe ys ye mode s
  | construct | reset | init | getSize | fbSize | sleepIn | sleepOut | displayOn | displayOff | setMadctl
  | setBrightness | setWindow | fullWindow => exact .request (.next rfl)
  | slpout | slpin | colmod | teoff | dispon | dispoff | bright | madctl | caset | raset | ramwr | ramwrc
  | mfrEntry => exact emit s _

end KeepsCfg

/-- Settles O7, by the ways a step can go. -/
theorem configurationNeverChanges : Obligations.ConfigurationNeverChanges := by
  intro s t h
  cases stepNext_of_step h with
  | waits _ _ ht => rw [ht]
  | accepts q rest i _ _ _ ht => exact KeepsCfg.exec i (s.take q rest) t ht
  | transmits x i _ _ ht => exact KeepsCfg.exec i s t ht
  | drivesReset l _ ht => rw [ht, State.performRst_cfg]
  | delays ms _ ht => rw [ht, State.performDly_cfg]
  | writes off v _ ht => exact KeepsCfg.performFbw s off v t ht
  | completes _ _ ht => rw [ht, State.finish_cfg]

end Sys2Proof.Machine

/-! ### What the decoders answer: a request for words, the transaction's own row for a transaction (spec R107, R129) -/

namespace Sys2Proof.Machine

/-- What a decoder answers, if it answers an instruction, is a host request: it has words of its own. -/
def AnswersRequest (r : Except DecodeError Instr) : Prop := ∀ i, r = .ok i → (encodeReq i).isSome = true

namespace AnswersRequest

theorem ok {i : Instr} (h : (encodeReq i).isSome = true) : AnswersRequest (.ok i) := by
  rintro _ ⟨⟩
  exact h

theorem error (e : DecodeError) : AnswersRequest (.error e) := by
  rintro _ ⟨⟩

theorem ite {p : Prop} [Decidable p] {a b : Except DecodeError Instr} (ha : AnswersRequest a) (hb : AnswersRequest b) :
    AnswersRequest (if p then a else b) := by
  split
  · exact ha
  · exact hb

theorem noMode {q : Req} {i : Instr} (h : (encodeReq i).isSome = true) : AnswersRequest (decodeNoMode q i) :=
  .ite (.ok h) (.error _)

theorem clear {b : Bool} {r : Except DecodeError Instr} (h : AnswersRequest r) : AnswersRequest (decodeClear b r) :=
  .ite h (.error _)

/-- Branch by branch, in the order of the opcode map (R121). -/
theorem decodeOp (q : Req) : AnswersRequest (decodeOp q) :=
  .ite (.noMode rfl) <| .ite (.noMode rfl) <| .ite (.noMode rfl) <| .ite (.clear (.noMode rfl)) <|
  .ite (.noMode rfl) <| .ite (.ok rfl) <| .ite (.noMode rfl) <| .ite (.clear (.ok rfl)) <|
  .ite (.noMode rfl) <| .ite (.noMode rfl) <| .ite (.noMode rfl) <| .ite (.noMode rfl) <|
  .ite (.clear (.noMode rfl)) <| .ite (.clear (.noMode rfl)) <| .ite (.clear (.noMode rfl)) <| .error _

theorem decodeReq (q : Req) : AnswersRequest (decodeReq q) := .ite (decodeOp q) (.error _)

end AnswersRequest

theorem encodeTxn_of_decodeMfr {c : Cfg} {cmd : Byte} {data : Bytes} {i : Instr} (h : decodeMfr c cmd data = some i) :
    encodeTxn c i = some (txnCommand c cmd data) := by
  unfold decodeMfr at h
  split at h <;> cases h
  rfl

theorem encodeTxn_of_decodeBare {c : Cfg} {cmd : Byte} {i : Instr} (h : decodeBare c cmd = some i) :
    encodeTxn c i = some (txnCommand c cmd []) := by
  unfold decodeBare at h
  repeat' split at h
  case isFalse => exact encodeTxn_of_decodeMfr h
  all_goals next hcmd => cases h; rw [hcmd]; rfl

theorem encodeTxn_of_decodeOneByte {c : Cfg} {cmd v : Byte} {i : Instr} (h : decodeOneByte c cmd v = some i) :
    encodeTxn c i = some (txnCommand c cmd [v]) := by
  unfold decodeOneByte at h
  split at h
  · next hcmd => cases h; rw [hcmd]; rfl
  · split at h
    · next hcmd => cases h; rw [hcmd]; rfl
    · split at h
      · next hrow => cases h; rw [hrow.1, hrow.2]; rfl
      · exact encodeTxn_of_decodeMfr h

/-- Two big-endian pairs of bytes are the payload of their window (R110). -/
theorem windowPayload_append (p0 p1 p2 p3 : Byte) : windowPayload (p0 ++ p1) (p2 ++ p3) = [p0, p1, p2, p3] := by
  rw [windowPayload, be16_append, be16_append]
  rfl

theorem encodeTxn_of_decodeFourBytes {c : Cfg} {cmd p0 p1 p2 p3 : Byte} {i : Instr}
    (h : decodeFourBytes c cmd p0 p1 p2 p3 = some i) :
    encodeTxn c i = some (txnCommand c cmd [p0, p1, p2, p3]) := by
  unfold decodeFourBytes at h
  split at h
  · next hcmd => cases h; rw [hcmd, encodeTxn, windowPayload_append]
  · split at h
    · next hcmd => cases h; rw [hcmd, encodeTxn, windowPayload_append]
    · exact encodeTxn_of_decodeMfr h

theorem encodeTxn_of_decodeCommand {c : Cfg} {cmd : Byte} {data : Bytes} {i : Instr}
    (h : decodeCommand c cmd data = some i) : encodeTxn c i = some (txnCommand c cmd data) := by
  unfold decodeCommand at h
  split at h
  · exact encodeTxn_of_decodeBare h
  · exact encodeTxn_of_decodeOneByte h
  · exact encodeTxn_of_decodeFourBytes h
  · exact encodeTxn_of_decodeMfr h

theorem encodeTxn_of_decodePixels {c : Cfg} {cmd : Byte} {payload : Bytes} {i : Instr}
    (h : decodePixels c cmd payload = some i) : encodeTxn c i = some (txnPixels c cmd payload) := by
  unfold decodePixels at h
  split at h
  · split at h
    · next hcmd => cases h; rw [hcmd]; rfl
    · split at h
      · next hcmd => cases h; rw [hcmd]; rfl
      · cases h
  · cases h

/-- A transaction with the fields of R102 and R104 is put together from its command byte, data mode, opcode and
payload. -/
theorem txn_eq_of_fieldsOk {x : Txn} (h : x.fieldsOk = true) : x = ⟨x.dm, x.opc, txnAddr x.cmd, 0, x.payload⟩ := by
  simp only [Txn.fieldsOk, Bool.and_eq_true, decide_eq_true_eq] at h
  obtain ⟨⟨hhigh, hlow⟩, hlen⟩ := h
  rw [Txn.cmd, txnAddr_of_fields hhigh hlow, ← hlen]

/-- The row that a transaction decodes to is the row of that very transaction. -/
theorem encodeTxn_of_decodeTxn {c : Cfg} {x : Txn} {i : Instr} (h : decodeTxn c x = some i) :
    encodeTxn c i = some x := by
  unfold decodeTxn at h
  split at h
  · next hf =>
    rw [txn_eq_of_fieldsOk hf]
    split at h
    · next hcmd => rw [hcmd.1, hcmd.2]; exact encodeTxn_of_decodeCommand h
    · split at h
      · next hpix => rw [hpix.1, hpix.2]; exact encodeTxn_of_decodePixels h
      · cases h
  · cases h

/-! ### One step, by what it finds to do -/

/-- Settles O23: the host's request is what the step fetches. -/
theorem stepRunsTheNextRequest : Obligations.StepRunsTheNextRequest := by
  intro s q rest i hb hh hd
  exact step_of_run (by rw [fetch_idle hb, fetchRequest, hh]; dsimp only; rw [hd]; rfl)

/-- Settles O24: the current transaction's row is what the step fetches. -/
theorem stepRunsTheCurrentTransaction : Obligations.StepRunsTheCurrentTransaction := by
  intro s x i hc hd
  obtain ⟨hb, -⟩ := State.current_some hc
  exact step_of_run (by rw [fetch_busy hb, fetchAction, hc]; dsimp only; rw [hd])

/-- With no request in progress and none from the host, the block waits. -/
theorem step_waits {s : State} (hb : s.busy = false) (hh : s.env.host = []) : step s = .next s :=
  step_of_done (by rw [fetch_idle hb, fetchRequest, hh])

theorem State.emit_current {s : State} {x : Txn} (hc : s.current = some (.tx x)) : s.emit x = .next (s.performTx x) :=
  if_pos hc

/-- The row that a transaction decodes to performs that transaction, if it answers a next state. -/
theorem performTx_of_exec {s t : State} {x : Txn} {i : Instr} (hd : decodeTxn s.c x = some i) (h : exec i s = .next t) :
    t = s.performTx x := by
  rw [exec_of_encodeTxn (encodeTxn_of_decodeTxn hd)] at h
  exact (State.emit_next h).2

/-- A step at a transaction that is a row of the table performs it. -/
theorem step_tx {s : State} {x : Txn} {i : Instr} (hc : s.current = some (.tx x)) (hd : decodeTxn s.c x = some i) :
    step s = .next (s.performTx x) := by
  rw [stepRunsTheCurrentTransaction s x i hc hd, exec_of_encodeTxn (encodeTxn_of_decodeTxn hd), State.emit_current hc]

/-! ### Power-on and the framebuffer's canonical form -/

/-- Settles O1: `State.powerOn` writes these fields. -/
theorem powerOnState : Obligations.PowerOnState :=
  ⟨rfl, fun _ => ⟨rfl, rfl, rfl, rfl, rfl, rfl, rfl, rfl, rfl⟩⟩

theorem Memory.read_head {cell : Host.Cell} {rest : Memory} : Memory.read (cell :: rest) cell.1 = cell.2 := if_pos rfl

/-- Two canonical contents with equal bytes are the same list: by induction, as the heads must be the same cell, and
behind it the contents have equal bytes again. -/
theorem Memory.eq_of_read_eq : ∀ {m m' : Memory} {lo lo' : Nat},
    Memory.wfFrom lo m = true → Memory.wfFrom lo' m' = true → (∀ a, Memory.read m a = Memory.read m' a) → m = m'
  | [], [], _, _, _, _, _ => rfl
  | [], cell' :: rest', _, _, _, hw', h =>
    absurd (Memory.read_head.symm.trans (h cell'.1).symm) (Memory.wfFrom_cons.1 hw').2.1
  | cell :: rest, [], _, _, hw, _, h => absurd (Memory.read_head.symm.trans (h cell.1)) (Memory.wfFrom_cons.1 hw).2.1
  | cell :: rest, cell' :: rest', _, _, hw, hw', h => by
    obtain ⟨-, hv, hr⟩ := Memory.wfFrom_cons.1 hw
    obtain ⟨-, hv', hr'⟩ := Memory.wfFrom_cons.1 hw'
    have below {n : Nat} (hn : n < cell.1) : Memory.read (cell :: rest) n = 0 :=
      Memory.read_below (Memory.wfFrom_cons.2 ⟨Nat.le_refl _, hv, hr⟩) hn
    have below' {n : Nat} (hn : n < cell'.1) : Memory.read (cell' :: rest') n = 0 :=
      Memory.read_below (Memory.wfFrom_cons.2 ⟨Nat.le_refl _, hv', hr'⟩) hn
    rcases Nat.lt_trichotomy cell.1 cell'.1 with hlt | heq | hgt
    · exact absurd (Memory.read_head.symm.trans ((h cell.1).trans (below' hlt))) hv
    · have hcell : cell = cell' := by
        refine Prod.ext heq (Memory.read_head.symm.trans ((h cell.1).trans ?_))
        rw [heq]
        exact Memory.read_head
      subst hcell
      rw [Memory.eq_of_read_eq hr hr' fun a => ?_]
      by_cases ha : cell.1 = a
      · rw [Memory.read_below hr (by omega), Memory.read_below hr' (by omega)]
      · have hread := h a
        rwa [Memory.read, Memory.read, if_neg ha, if_neg ha] at hread
    · exact absurd (Memory.read_head.symm.trans ((h cell'.1).symm.trans (below hgt))) hv'

/-- Settles O42: the canonical form from offset 0 on. -/
theorem framebufferContentsAreCanonical : Obligations.FramebufferContentsAreCanonical := by
  intro m m' hw hw' h
  exact Memory.eq_of_read_eq hw hw' h

end Sys2Proof.Machine

/-! ### What a request that is accepted does -/

namespace Sys2Proof.Machine

/-! The requests whose outcome depends on their operands or on the framebuffer, case by case. -/

section
variable {s : State} {m : Memory}

theorem State.writePixel_clipped {x y : Word} {r g b : Byte} (h : pixelWrite s.c x y r g b = none) :
    s.writePixel x y r g b = s.request opWritePixel (.next (s.answer opWritePixel 0 0)) := by
  rw [State.writePixel, h]

theorem State.writePixel_inside {x y : Word} {r g b : Byte} {w : Nat × Bytes}
    (h : pixelWrite s.c x y r g b = some w) :
    s.writePixel x y r g b =
      s.request opWritePixel ((s.load opWritePixel none [.fbw w.1 w.2]).performFbw w.1 w.2) := by
  rw [State.writePixel, h]

theorem execFlushFull_absent (hf : s.fb = none) : execFlushFull s = s.request opFlushFull (.fault .fbAbsent) := by
  rw [execFlushFull, hf]

theorem execFlushFull_present (hf : s.fb = some m) :
    execFlushFull s = s.request opFlushFull (.next (s.load opFlushFull (some (fullWindow s.c))
      (flushActions s.c (fullWindow s.c) (Memory.readBytes m 0 s.c.fblen)))) := by
  rw [execFlushFull, hf]

variable {xs xe ys ye : Half} {mode : ColorMode}

theorem execFlushPartial_absent (hf : s.fb = none) :
    execFlushPartial xs xe ys ye mode s = s.request opFlushPartial (.fault .fbAbsent) := by
  rw [execFlushPartial, hf]

theorem execFlushPartial_loads {list : List Action} (hf : s.fb = some m)
    (hl : partialFlush s.c m ⟨xs, ys, xe, ye⟩ mode = some list) :
    execFlushPartial xs xe ys ye mode s =
      s.request opFlushPartial (.next (s.load opFlushPartial (some ⟨xs, ys, xe, ye⟩) list)) := by
  rw [execFlushPartial, hf]
  dsimp only
  rw [hl]

theorem execFlushPartial_rejects (hf : s.fb = some m) (hl : partialFlush s.c m ⟨xs, ys, xe, ye⟩ mode = none) :
    execFlushPartial xs xe ys ye mode s =
      s.request opFlushPartial (.next (s.reject opFlushPartial .invalidConfiguration)) := by
  rw [execFlushPartial, hf]
  dsimp only
  rw [hl]

end

/-- What a request that sends actions is accepted with: its opcode, its window and its list. It is no CONSTRUCT, the
list is not empty and holds actions the request may have, and the window is the one the list sends (R36, R46). -/
structure Loadable (c : Cfg) (op : Byte) (w : Option Rect) (list : List Action) : Prop where
  other : op ≠ opConstruct
  nonempty : 0 < list.length
  actions : ∀ a ∈ list, allowed c (some op) a
  window : (w = none ∧ ¬ sendsWindow (some op)) ∨
    (sendsWindow (some op) ∧ ∃ r rest, w = some r ∧ list = windowActions c r ++ rest)

theorem not_sendsWindow_construct : ¬ sendsWindow (some opConstruct) := by unfold sendsWindow; decide

theorem loadable_control {c : Cfg} {op cmd : Byte} {data : Bytes} (hop : op ≠ opConstruct)
    (hw : ¬ sendsWindow (some op)) (hd : (decodeCommand c cmd data).isSome = true) (delay : Nat) :
    Loadable c op none (sendCommandData c cmd data ++ optDelay delay) where
  other := hop
  nonempty := Nat.zero_lt_succ _
  actions := List.forall_mem_append.2 ⟨List.forall_mem_singleton.2 (allowed_command hd), allowed_optDelay c _ delay⟩
  window := .inl ⟨rfl, hw⟩

/-- A window and what follows it, for a request that sends a window. -/
theorem loadable_window {c : Cfg} {op : Byte} {rest : List Action} (hop : op ≠ opConstruct)
    (hw : sendsWindow (some op)) (hr : ∀ a ∈ rest, allowed c (some op) a) (r : Rect) :
    Loadable c op (some r) (windowActions c r ++ rest) where
  other := hop
  nonempty := Nat.zero_lt_succ _
  actions := List.forall_mem_append.2 ⟨allowed_windowActions c _ r, hr⟩
  window := .inr ⟨hw, r, rest, rfl, rfl⟩

theorem loadable_reset (c : Cfg) : Loadable c opReset none (resetSequence c) where
  other := by decide
  nonempty := Nat.zero_lt_succ _
  actions := allowed_resetSequence c (.inr rfl)
  window := .inl ⟨rfl, by unfold sendsWindow; decide⟩

theorem loadable_init (c : Cfg) : Loadable c opInit none (initSeq c) where
  other := by decide
  nonempty := by simp [initSeq, sendCommand]
  actions := allowed_initSeq c _
  window := .inl ⟨rfl, by unfold sendsWindow; decide⟩

/-- The ways in which accepting the request `i` takes `s` to `t`, each with the phase that admits it. A request that
completes at once changes only `RES` and the sequencer, unless it writes a pixel. -/
inductive RequestNext (i : Instr) (s t : State) : Prop where
  | constructs (hp : s.phase = .powerOn ∨ s.phase = .failed)
      (ht : t = ({ s with
        fb := some s.freshFb
        phase := .constructing
        env := { s.env with draws := s.env.draws + 1 } } : State).load opConstruct none (constructActions s.c))
  | loads (op : Byte) (w : Option Rect) (list : List Action) (hp : s.phase = .ready) (hl : Loadable s.c op w list)
      (ht : t = s.load op w list)
  | answers (r : Res) (q : Seq) (hp : s.phase = .ready) (ht : t = { s with res := r, seq := q })
  | writesPixel (x y : Word) (r g b : Byte) (m : Memory) (off : Nat) (v : Bytes) (hi : i = .writePixel x y r g b)
      (hp : s.phase = .ready) (hf : s.fb = some m) (hl : off + v.length ≤ s.c.fblen)
      (ht : t = { s with
        fb := some (Memory.writeBytes m off v)
        res := ⟨.ok, .none, 0, 0⟩
        seq := { op := some opWritePixel, list := [.fbw off v], k := 1, window := none } })

namespace RequestNext

/-- A request other than CONSTRUCT that answers a next state was made in READY. -/
theorem of_request {i : Instr} {s t : State} {op : Byte} {o : Out} (hop : op ≠ opConstruct)
    (h : s.request op o = .next t) (hn : s.busy = false → s.phase = .ready → o = .next t → RequestNext i s t) :
    RequestNext i s t := by
  obtain ⟨hb, ha, ho⟩ := State.request_next h
  exact hn hb ((admitted_other hop _).1 ha) ho

theorem of_load {i : Instr} {s t : State} {op : Byte} {w : Option Rect} {list : List Action}
    (hl : Loadable s.c op w list) (h : s.request op (.next (s.load op w list)) = .next t) : RequestNext i s t :=
  of_request hl.other h fun _ hp ho => .loads op w list hp hl (Host.Outcome.next.inj ho).symm

theorem of_answer {i : Instr} {s t : State} {op : Byte} {v0 v1 : Word} (hop : op ≠ opConstruct)
    (hw : forgetsWindow (some op) = false) (h : s.request op (.next (s.answer op v0 v1)) = .next t) :
    RequestNext i s t :=
  of_request hop h fun hb hp ho =>
    .answers _ _ hp ((Host.Outcome.next.inj ho).symm.trans (State.answer_ready hb hp hw v0 v1))

theorem construct {s t : State} (h : execConstruct s = .next t) : RequestNext .construct s t := by
  obtain ⟨-, ha, ho⟩ := State.request_next h
  exact .constructs ((admitted_construct _).1 ha) (Host.Outcome.next.inj ho).symm

/-- The write of a pixel inside the panel completes in the step that accepts it. -/
theorem performFbw_ready {s t : State} {off : Nat} {v : Bytes} (hb : s.busy = false) (hp : s.phase = .ready)
    (h : (s.load opWritePixel none [.fbw off v]).performFbw off v = .next t) :
    ∃ m, s.fb = some m ∧ off + v.length ≤ s.c.fblen ∧ t = { s with
      fb := some (Memory.writeBytes m off v)
      res := ⟨.ok, .none, 0, 0⟩
      seq := { op := some opWritePixel, list := [.fbw off v], k := 1, window := none } } := by
  obtain ⟨m, hf, hl, rfl⟩ := State.performFbw_next h
  refine ⟨m, hf, hl, ?_⟩
  rw [State.endAction_last (Nat.le_refl _)]
  simp [State.finish, State.beginAction, State.load, hp, hb, Completion.res, gwinAfter,
    show forgetsWindow (some opWritePixel) = false by decide]

theorem writePixel {s t : State} {x y : Word} {r g b : Byte} (h : s.writePixel x y r g b = .next t) :
    RequestNext (.writePixel x y r g b) s t := by
  cases hw : pixelWrite s.c x y r g b with
  | none =>
    rw [State.writePixel_clipped hw] at h
    exact of_answer (by decide) (by decide) h
  | some w =>
    rw [State.writePixel_inside hw] at h
    refine of_request (by decide) h fun hb hp ho => ?_
    obtain ⟨m, hf, hl, ht⟩ := performFbw_ready hb hp ho
    exact .writesPixel x y r g b m w.1 w.2 rfl hp hf hl ht

theorem flushFull {s t : State} (h : execFlushFull s = .next t) : RequestNext .flushFull s t := by
  cases hf : s.fb with
  | none =>
    rw [execFlushFull_absent hf] at h
    exact of_request (by decide) h nofun
  | some m =>
    rw [execFlushFull_present hf] at h
    exact of_load (loadable_window (by decide) (.inr (.inl rfl)) (allowed_sendPixels _ _ s.maxChunk_pos) _) h

/-- A partial flush that expands to a list sends its window first. -/
theorem partialFlush_some {c : Cfg} {m : Memory} {r : Rect} {mode : ColorMode} {list : List Action}
    (h : partialFlush c m r mode = some list) : ∃ payload, list = flushActions c r payload := by
  unfold partialFlush at h
  split at h
  · split at h
    · next payload _ => exact ⟨payload, (Option.some.inj h).symm⟩
    · cases h
  · cases h

theorem flushPartial {s t : State} {xs xe ys ye : Half} {mode : ColorMode}
    (h : execFlushPartial xs xe ys ye mode s = .next t) : RequestNext (.flushPartial xs xe ys ye mode) s t := by
  cases hf : s.fb with
  | none =>
    rw [execFlushPartial_absent hf] at h
    exact of_request (by decide) h nofun
  | some m =>
    cases hl : partialFlush s.c m ⟨xs, ys, xe, ye⟩ mode with
    | some list =>
      obtain ⟨payload, rfl⟩ := partialFlush_some hl
      rw [execFlushPartial_loads hf hl] at h
      exact of_load (loadable_window (by decide) (.inr (.inr rfl)) (allowed_sendPixels _ payload s.maxChunk_pos) _) h
    | none =>
      rw [execFlushPartial_rejects hf hl] at h
      exact of_request (by decide) h fun hb hp ho =>
        .answers _ _ hp ((Host.Outcome.next.inj ho).symm.trans (State.reject_ready hb hp))

theorem control {i : Instr} {s t : State} {op cmd : Byte} {data : Bytes} {delay : Nat}
    (h : s.control op (sendCommandData s.c cmd data) delay = .next t) (hop : op ≠ opConstruct ∧ ¬ sendsWindow (some op))
    (hd : (decodeCommand s.c cmd data).isSome = true) : RequestNext i s t :=
  of_load (loadable_control hop.1 hop.2 hd delay) h

/-- What a request does, by its row of the table. -/
theorem of_exec {i : Instr} {s t : State} (hi : (encodeReq i).isSome = true) (h : exec i s = .next t) :
    RequestNext i s t := by
  obtain ⟨hslpout, hslpin, -, hdispon, hdispoff⟩ := decodeCommand_bare s.c
  cases i with
  | construct => exact construct h
  | reset => exact of_load (loadable_reset s.c) h
  | init => exact of_load (loadable_init s.c) h
  | writePixel x y r g b => exact writePixel h
  | getSize | fbSize m => exact of_answer (by decide) (by decide) h
  | flushFull => exact flushFull h
  | flushPartial xs xe ys ye mode => exact flushPartial h
  | sleepIn => exact control h (by unfold sendsWindow; decide) hslpin
  | sleepOut => exact control h (by unfold sendsWindow; decide) hslpout
  | displayOn => exact control h (by unfold sendsWindow; decide) hdispon
  | displayOff => exact control h (by unfold sendsWindow; decide) hdispoff
  | setMadctl v => exact control h (by unfold sendsWindow; decide) (decodeCommand_oneByte s.c v).2.1
  | setBrightness v => exact control h (by unfold sendsWindow; decide) (decodeCommand_oneByte s.c v).1
  | setWindow xs ys xe ye =>
    exact of_load (loadable_window (by decide) (.inl rfl) (List.forall_mem_nil _) ⟨xs, ys, xe, ye⟩) h
  | drawIter | fullWindow | slpout | slpin | colmod | teoff | dispon | dispoff | bright | madctl | caset | raset
  | ramwr | ramwrc | mfrEntry => cases hi

/-- A request of the host does what the request does that its words decode to. -/
theorem of_decodeReq {q : Req} {i : Instr} {s t : State} (hd : decodeReq q = .ok i) (h : exec i s = .next t) :
    RequestNext i s t :=
  of_exec (AnswersRequest.decodeReq q i hd) h

end RequestNext

/-- With no request in progress, a step waits, or does what the host's request does once its words are latched. -/
theorem requestNext_of_idle {s t : State} (hb : s.busy = false) (h : step s = .next t) :
    t = s ∨ ∃ q rest i, s.env.host = q :: rest ∧ decodeReq q = .ok i ∧ RequestNext i (s.take q rest) t := by
  have hidle := State.current_idle hb
  cases stepNext_of_idle hb h with
  | waits _ _ ht => exact .inl ht
  | accepts q rest i _ hh hd ht => exact .inr ⟨q, rest, i, hh, hd, RequestNext.of_decodeReq hd ht⟩
  | transmits _ _ hc | drivesReset _ hc | delays _ hc | writes _ _ hc => cases hidle.symm.trans hc
  | completes hb' => cases hb.symm.trans hb'

end Sys2Proof.Machine

/-! ### What a step of a request in progress does -/

namespace Sys2Proof.Machine

/-- The state when the current action has been performed and the sequencer has not gone on: the action has begun, and
it has left this trace, this environment and this framebuffer. -/
def State.acted (s : State) (tr : List Event) (e : Env) (f : Option Memory) : State :=
  { s.beginAction with trace := tr, env := e, fb := f }

section
variable (s : State) (tr : List Event) (e : Env) (f : Option Memory)

@[simp] theorem State.acted_cfg : (s.acted tr e f).cfg = s.cfg := rfl
@[simp] theorem State.acted_c : (s.acted tr e f).c = s.c := rfl
@[simp] theorem State.acted_phase : (s.acted tr e f).phase = phaseAtAction s.phase := rfl
@[simp] theorem State.acted_busy : (s.acted tr e f).busy = s.busy := rfl
@[simp] theorem State.acted_seq : (s.acted tr e f).seq = s.seq := rfl
@[simp] theorem State.acted_req : (s.acted tr e f).req = s.req := rfl
@[simp] theorem State.acted_res : (s.acted tr e f).res = s.res := rfl
@[simp] theorem State.acted_fb : (s.acted tr e f).fb = f := rfl
@[simp] theorem State.acted_gwin : (s.acted tr e f).gwin = s.gwin := rfl
@[simp] theorem State.acted_trace : (s.acted tr e f).trace = tr := rfl
@[simp] theorem State.acted_env : (s.acted tr e f).env = e := rfl
end

/-- The state whose sequencer has gone on to the next action, the current one having completed with `Ok`. -/
def State.advance (s : State) : State :=
  { s with phase := phaseAfterAction s.phase s.seq.k, seq := { s.seq with k := s.seq.k + 1 } }

section
variable (s : State)

@[simp] theorem State.advance_cfg : s.advance.cfg = s.cfg := rfl
@[simp] theorem State.advance_c : s.advance.c = s.c := rfl
@[simp] theorem State.advance_phase : s.advance.phase = phaseAfterAction s.phase s.seq.k := rfl
@[simp] theorem State.advance_busy : s.advance.busy = s.busy := rfl
@[simp] theorem State.advance_seq : s.advance.seq = { s.seq with k := s.seq.k + 1 } := rfl
@[simp] theorem State.advance_req : s.advance.req = s.req := rfl
@[simp] theorem State.advance_res : s.advance.res = s.res := rfl
@[simp] theorem State.advance_fb : s.advance.fb = s.fb := rfl
@[simp] theorem State.advance_gwin : s.advance.gwin = s.gwin := rfl
@[simp] theorem State.advance_trace : s.advance.trace = s.trace := rfl
@[simp] theorem State.advance_env : s.advance.env = s.env := rfl
end

/-- A collaborator's error: what an action answered `Err` completes the request with. -/
def Completion.IsAnswerErr (o : Completion) : Prop := (∃ e, o = .interfaceError e) ∨ ∃ e, o = .resetError e

theorem Completion.IsAnswerErr.isOk {o : Completion} (h : o.IsAnswerErr) : o.isOk = false := by
  rcases h with ⟨e, rfl⟩ | ⟨e, rfl⟩ <;> rfl

/-- The ways in which the current action takes `s` to `t`: the request goes on, completes with OK, or fails. -/
inductive ActionNext (s t : State) : Prop where
  | goesOn (tr : List Event) (e : Env) (f : Option Memory) (hh : e.host = s.env.host)
      (hf : f = s.fb ∨ ∃ off v, s.current = some (.fbw off v)) (hk : s.seq.k + 1 < s.seq.list.length)
      (ht : t = (s.acted tr e f).advance)
  | ends (tr : List Event) (e : Env) (f : Option Memory) (hh : e.host = s.env.host)
      (hf : f = s.fb ∨ ∃ off v, s.current = some (.fbw off v)) (hk : s.seq.list.length ≤ s.seq.k + 1)
      (ht : t = (s.acted tr e f).advance.finish (.ok 0 0))
  | fails (tr : List Event) (e : Env) (hh : e.host = s.env.host) (o : Completion) (ho : o.IsAnswerErr)
      (ht : t = (s.acted tr e s.fb).finish o)

namespace ActionNext
variable {s : State}

theorem of_endAction {tr : List Event} {e : Env} {f : Option Memory} (hh : e.host = s.env.host)
    (hf : f = s.fb ∨ ∃ off v, s.current = some (.fbw off v)) : ActionNext s (s.acted tr e f).endAction := by
  rcases Nat.lt_or_ge (s.seq.k + 1) s.seq.list.length with hk | hk
  · exact .goesOn tr e f hh hf hk (State.endAction_more hk)
  · exact .ends tr e f hh hf hk (State.endAction_last hk)

theorem performTx (x : Txn) : ActionNext s (s.performTx x) := by
  cases h : s.txResponse with
  | ok => rw [State.performTx_ok x h]; exact of_endAction (Env.afterTx_host _) (.inl rfl)
  | err e => exact .fails _ _ (Env.afterTx_host _) _ (.inl ⟨e, rfl⟩) (State.performTx_err x h)

theorem performRst (l : Level) : ActionNext s (s.performRst l) := by
  cases h : s.rstResponse with
  | ok => rw [State.performRst_ok l h]; exact of_endAction (Env.afterRst_host _) (.inl rfl)
  | err e => exact .fails _ _ (Env.afterRst_host _) _ (.inr ⟨e, rfl⟩) (State.performRst_err l h)

theorem performDly (ms : Nat) : ActionNext s (s.performDly ms) :=
  of_endAction (tr := s.trace ++ [Event.dly ms]) (e := s.env) rfl (.inl rfl)

theorem performFbw {t : State} {off : Nat} {v : Bytes} (hc : s.current = some (.fbw off v))
    (h : s.performFbw off v = .next t) : ActionNext s t := by
  obtain ⟨m, -, -, rfl⟩ := State.performFbw_next h
  exact of_endAction (tr := s.trace) (e := s.env) rfl (.inr ⟨off, v, hc⟩)

/-- A step at an action performs that action. -/
theorem of_step {t : State} {a : Action} (hc : s.current = some a) (h : step s = .next t) : ActionNext s t := by
  have hbusy (hb : s.busy = false) : False := nomatch (State.current_idle hb).symm.trans hc
  cases stepNext_of_step h with
  | waits hb | accepts _ _ _ hb => exact (hbusy hb).elim
  | transmits x i _ hd ht => exact performTx_of_exec hd ht ▸ performTx x
  | drivesReset l _ ht => exact ht ▸ performRst l
  | delays ms _ ht => exact ht ▸ performDly ms
  | writes off v hc ht => exact performFbw hc ht
  | completes _ hn => cases hn.symm.trans hc

end ActionNext

/-! ### The invariant -/

theorem constructPhase_ne (k : Nat) : constructPhase k ≠ .powerOn ∧ constructPhase k ≠ .failed := by
  unfold constructPhase
  repeat' split
  all_goals decide

theorem inConstruction_constructPhase (k : Nat) : inConstruction (constructPhase k) = true := by
  unfold constructPhase
  repeat' split
  all_goals rfl

/-- A construction's `PHASE` follows the index: RESET begins with action 0, the init sequence after action 3 (R32). -/
theorem phaseAfterAction_constructPhase (k : Nat) :
    phaseAfterAction (phaseAtAction (constructPhase k)) k = constructPhase (k + 1) := by
  match k with
  | 0 | 1 | 2 | 3 => rfl
  | n + 4 => simp [constructPhase, phaseAtAction, phaseAfterAction]

section
variable {s : State}

/-- With a request in progress there is a driver. -/
theorem State.PhaseFollows.driver (h : s.PhaseFollows) (hb : s.busy = true) :
    s.phase ≠ .powerOn ∧ s.phase ≠ .failed := by
  rcases h hb with ⟨-, -, hp⟩ | ⟨-, hp⟩
  · rw [hp]
    exact constructPhase_ne _
  · rw [hp]
    decide

theorem State.FbPresence.of_driver (hf : s.fb ≠ none) (hp : s.phase ≠ .powerOn ∧ s.phase ≠ .failed) : s.FbPresence :=
  ⟨fun h => absurd h hf, fun h => absurd h (not_or.2 hp)⟩

theorem State.FbPresence.fb_ne_none (h : s.FbPresence) (hp : s.phase ≠ .powerOn ∧ s.phase ≠ .failed) : s.fb ≠ none :=
  fun hf => absurd (h.1 hf) (not_or.2 hp)

/-- With no request in progress, the invariant is about the framebuffer and `PHASE` only. -/
theorem State.Inv.of_idle (hb : s.busy = false) (hc : s.FbCanonical) (hf : s.FbPresence)
    (hp : inConstruction s.phase = false) : s.Inv := by
  have absurdBusy {P : Prop} (h : s.busy = true) : P := absurd (hb.symm.trans h) (by decide)
  exact ⟨hc, hf, fun _ => hp, fun h => absurdBusy h, fun h => absurdBusy h, fun h => absurdBusy h⟩

theorem State.Inv.of_ready (hb : s.busy = false) (hp : s.phase = .ready) (hc : s.FbCanonical) (hf : s.fb ≠ none) :
    s.Inv :=
  .of_idle hb hc (.of_driver hf (by rw [hp]; decide)) (by rw [hp]; rfl)

/-- With a request in progress, the framebuffer is there, as `PHASE` follows the request. -/
theorem State.Inv.of_busy (hb : s.busy = true) (hc : s.FbCanonical) (hf : s.fb ≠ none)
    (hs : s.seq.k < s.seq.list.length ∧ ∀ a ∈ s.seq.list, allowed s.c s.seq.op a) (hp : s.PhaseFollows)
    (hw : s.WindowSent) : s.Inv :=
  ⟨hc, .of_driver hf (hp.driver hb), fun h => absurd (hb.symm.trans h) (by decide), fun _ => hs, hp, hw⟩

end

/-- Settles O3: at power-on there is no framebuffer and no request. -/
theorem invariantAtReset : Obligations.InvariantAtReset :=
  State.Inv.of_idle rfl nofun ⟨fun _ => .inl rfl, fun _ => rfl⟩ rfl

/-! ### What the invariant says of a request in progress -/

section
variable {s : State} (h : s.Inv)
include h

/-- A request in progress is at an action of its list that it may have. -/
theorem State.Inv.exists_current (hb : s.busy = true) : ∃ a, s.current = some a ∧ allowed s.c s.seq.op a := by
  obtain ⟨-, -, -, hs, -, -⟩ := h
  obtain ⟨hk, ha⟩ := hs hb
  exact ⟨s.seq.list[s.seq.k], by simp [State.current, hb, hk], ha _ (List.getElem_mem hk)⟩

/-- No request in progress is at an internal write. -/
theorem State.Inv.not_at_fbw : ¬ ∃ off v, s.current = some (.fbw off v) := by
  rintro ⟨off, v, hc⟩
  obtain ⟨a, ha, hallowed⟩ := h.exists_current (State.current_some hc).1
  cases ha.symm.trans hc
  exact hallowed

/-- A step of a request in progress performs its current action. -/
theorem State.Inv.actionNext {t : State} (hb : s.busy = true) (hs : step s = .next t) : ActionNext s t := by
  obtain ⟨a, ha, -⟩ := h.exists_current hb
  exact ActionNext.of_step ha hs

/-- In a phase without a driver, no request is in progress. -/
theorem State.Inv.idle_of_noDriver (hp : s.phase = .powerOn ∨ s.phase = .failed) : s.busy = false := by
  obtain ⟨-, -, -, -, hpf, -⟩ := h
  cases hb : s.busy with
  | false => rfl
  | true => exact absurd hp (not_or.2 (hpf.driver hb))

/-- When the last action of a request completes with `Ok`, `PHASE` is READY. -/
theorem State.Inv.phase_at_last (hb : s.busy = true) (hk : s.seq.list.length ≤ s.seq.k + 1) (v0 v1 : Word) :
    phaseAfter (phaseAfterAction (phaseAtAction s.phase) s.seq.k) (.ok v0 v1) = .ready := by
  obtain ⟨-, -, -, -, hp, -⟩ := h
  rcases hp hb with ⟨-, hl, hp⟩ | ⟨-, hp⟩
  · rw [hl, constructActions_length] at hk
    rw [hp, phaseAfterAction_constructPhase, constructPhase, if_neg (by omega), if_neg (by omega)]
    rfl
  · rw [hp]
    rfl

/-! ### Each way of a step keeps the invariant -/

theorem State.Inv.advance (hb : s.busy = true) (hk : s.seq.k + 1 < s.seq.list.length) (tr : List Event) (e : Env) :
    (s.acted tr e s.fb).advance.Inv := by
  obtain ⟨hc, hf, -, hs, hp, hw⟩ := h
  refine .of_busy hb hc (hf.fb_ne_none (hp.driver hb)) ⟨hk, (hs hb).2⟩ (fun _ => ?_) hw
  rcases hp hb with ⟨hop, hl, hp⟩ | ⟨hop, hp⟩
  · exact .inl ⟨hop, hl, by rw [State.advance_phase, State.acted_phase, hp]; exact phaseAfterAction_constructPhase _⟩
  · exact .inr ⟨hop, by rw [State.advance_phase, State.acted_phase, hp]; rfl⟩

theorem State.Inv.finish_ok (hb : s.busy = true) (hk : s.seq.list.length ≤ s.seq.k + 1) (tr : List Event) (e : Env) :
    ((s.acted tr e s.fb).advance.finish (.ok 0 0)).Inv := by
  have hready : ((s.acted tr e s.fb).advance.finish (.ok 0 0)).phase = .ready := h.phase_at_last hb hk 0 0
  have hfb : ((s.acted tr e s.fb).advance.finish (.ok 0 0)).fb = s.fb := by simp
  obtain ⟨hc, hf, -, -, hp, -⟩ := h
  exact .of_ready rfl hready (fun m hm => hc m (hfb ▸ hm)) (hfb.trans_ne (hf.fb_ne_none (hp.driver hb)))

/-- A construction that fails loses its framebuffer (R210); any other request stays in READY and keeps it. -/
theorem State.Inv.finish_err (hb : s.busy = true) (tr : List Event) (e : Env) {o : Completion} (ho : o.isOk = false) :
    ((s.acted tr e s.fb).finish o).Inv := by
  obtain ⟨hc, hf, -, -, hp, -⟩ := h
  rcases hp hb with ⟨-, -, hphase⟩ | ⟨-, hphase⟩
  · have hin : inConstruction s.phase = true := hphase ▸ inConstruction_constructPhase _
    have hfb : ((s.acted tr e s.fb).finish o).fb = none := by simp [hin, ho]
    have hfailed : ((s.acted tr e s.fb).finish o).phase = .failed := by simp [phaseAfter, hin, ho]
    refine .of_idle rfl (fun m hm => absurd (hfb.symm.trans hm) nofun) ⟨fun _ => .inr hfailed, fun _ => hfb⟩ ?_
    rw [hfailed]
    rfl
  · have hfb : ((s.acted tr e s.fb).finish o).fb = s.fb := by simp [hphase]
    have hready : ((s.acted tr e s.fb).finish o).phase = .ready := by simp [hphase]
    exact .of_ready rfl hready (fun m hm => hc m (hfb ▸ hm)) (hfb.trans_ne (hf.fb_ne_none (hp.driver hb)))

/-- Reading the host's request changes nothing that the invariant speaks of. -/
theorem State.Inv.take (q : Req) (rest : List Req) : (s.take q rest).Inv := h

theorem State.Inv.of_requestNext {i : Instr} {t : State} (hb : s.busy = false) (hn : RequestNext i s t) : t.Inv := by
  obtain ⟨hc, hf, -⟩ := h
  cases hn with
  | constructs hp ht =>
    obtain ⟨hwf, hread⟩ := Memory.ofBytes_spec (Config.fbInit s.env.draws) s.c.fblen
    rw [ht]
    refine .of_busy rfl ?_ nofun ⟨by simp [constructActions_length], ?_⟩ (fun _ => .inl ⟨rfl, rfl, rfl⟩)
      fun _ => .inl ⟨rfl, not_sendsWindow_construct⟩
    · rintro m ⟨⟩
      exact ⟨hwf, fun a ha => (hread a).trans (if_neg (Nat.not_lt.2 ha))⟩
    · exact List.forall_mem_append.2 ⟨allowed_resetSequence s.c (.inl rfl), allowed_initSeq s.c _⟩
  | loads op w list hp hl ht =>
    rw [ht]
    refine .of_busy rfl hc (hf.fb_ne_none ?_) ⟨hl.nonempty, hl.actions⟩ (fun _ => .inr ⟨?_, hp⟩) fun _ => hl.window
    · rw [hp]
      decide
    · exact fun hop => hl.other (Option.some.inj hop)
  | answers r q hp ht =>
    rw [ht]
    exact .of_idle hb hc hf (by rw [hp]; rfl)
  | writesPixel x y r g b m off v hi hp hm hl ht =>
    rw [ht]
    obtain ⟨hwf, hz⟩ := hc m hm
    refine .of_ready hb hp ?_ nofun
    rintro m' ⟨⟩
    refine ⟨Memory.wf_writeBytes hwf, fun a (ha : s.c.fblen ≤ a) => ?_⟩
    rw [Memory.read_writeBytes hwf, if_neg (by omega), hz a ha]

end

/-- Settles O4, by the ways a step can go: a request is accepted, or an action goes on, ends the list or fails. -/
theorem stepKeepsInvariant : Obligations.StepKeepsInvariant := by
  intro s t h hs
  cases hb : s.busy with
  | false =>
    rcases requestNext_of_idle hb hs with rfl | ⟨q, rest, i, -, -, hn⟩
    · exact h
    · exact (h.take q rest).of_requestNext hb hn
  | true =>
    cases h.actionNext hb hs with
    | goesOn tr e f _ hf hk ht =>
      rw [ht, hf.resolve_right h.not_at_fbw]
      exact h.advance hb hk tr e
    | ends tr e f _ hf hk ht =>
      rw [ht, hf.resolve_right h.not_at_fbw]
      exact h.finish_ok hb hk tr e
    | fails tr e _ o ho ht =>
      rw [ht]
      exact h.finish_err hb tr e ho.isOk

end Sys2Proof.Machine

/-! ### `PHASE` (spec/10_state.md R32) -/

namespace Sys2Proof.Machine

/-- `PHASE` tells where a construction is: before action 0, at one of the reset sequence's others, or behind them. -/
theorem constructPhase_eq_iff (k : Nat) :
    (constructPhase k = .constructing ↔ k = 0) ∧ (constructPhase k = .reset ↔ 1 ≤ k ∧ k ≤ 3) ∧
    (constructPhase k = .initializing ↔ 4 ≤ k) := by
  match k with
  | 0 | 1 | 2 | 3 => decide
  | n + 4 => simp [constructPhase]

section
variable {s t : State} (h : s.Inv)
include h

/-- A construction's phase comes with the construction in progress, at the action that belongs to the phase. -/
theorem State.Inv.construction (hin : inConstruction s.phase = true) :
    s.busy = true ∧ s.seq.list = constructActions s.c ∧ s.phase = constructPhase s.seq.k := by
  obtain ⟨-, -, hi, -, hp, -⟩ := h
  cases hb : s.busy with
  | false => exact absurd ((hi hb).symm.trans hin) (by decide)
  | true =>
    rcases hp hb with ⟨-, hl, hphase⟩ | ⟨-, hphase⟩
    · exact ⟨rfl, hl, hphase⟩
    · rw [hphase] at hin
      cases hin

/-- A step of a construction: its next action, READY behind its last one, or FAILED. -/
theorem State.Inv.construction_step (hin : inConstruction s.phase = true) (hs : step s = .next t) :
    (t.busy = true ∧ t.phase = constructPhase (s.seq.k + 1)) ∨
    (t.busy = false ∧ t.phase = .ready ∧ t.res.status = .ok ∧ 10 ≤ s.seq.k) ∨
    (t.busy = false ∧ t.phase = .failed ∧ t.res.status ≠ .ok) := by
  obtain ⟨hb, hl, hp⟩ := h.construction hin
  cases h.actionNext hb hs with
  | goesOn tr e f _ _ _ ht =>
    rw [ht]
    refine .inl ⟨hb, ?_⟩
    rw [State.advance_phase, State.acted_phase, hp]
    exact phaseAfterAction_constructPhase _
  | ends tr e f _ _ hk ht =>
    rw [ht]
    have hlen := hk
    rw [hl, constructActions_length] at hlen
    exact .inr (.inl ⟨rfl, h.phase_at_last hb hk 0 0, rfl, by omega⟩)
  | fails tr e _ o ho ht =>
    rw [ht]
    refine .inr (.inr ⟨rfl, by simp [phaseAfter, hin, ho.isOk], ?_⟩)
    rcases ho with ⟨e, rfl⟩ | ⟨e, rfl⟩ <;> exact nofun

/-- Without a driver, a step waits or accepts a CONSTRUCT. -/
theorem State.Inv.noDriver_step (hp : s.phase = .powerOn ∨ s.phase = .failed) (hs : step s = .next t) :
    (t.busy = false ∧ t.phase = s.phase) ∨
    (t.busy = true ∧ t.phase = .constructing ∧ t.seq.op = some opConstruct) := by
  have hb := h.idle_of_noDriver hp
  have hnready : s.phase ≠ .ready := by
    rcases hp with hp | hp <;> rw [hp] <;> decide
  rcases requestNext_of_idle hb hs with rfl | ⟨q, rest, i, -, -, hn⟩
  · exact .inl ⟨hb, rfl⟩
  · cases hn with
    | constructs _ ht => rw [ht]; exact .inr ⟨rfl, rfl, rfl⟩
    | loads _ _ _ hr | answers _ _ hr | writesPixel _ _ _ _ _ _ _ _ _ hr => exact absurd hr hnready

/-- READY is never left. -/
theorem State.Inv.ready_step (hp : s.phase = .ready) (hs : step s = .next t) : t.phase = .ready := by
  cases hb : s.busy with
  | false =>
    rcases requestNext_of_idle hb hs with rfl | ⟨q, rest, i, -, -, hn⟩
    · exact hp
    · cases hn with
      | constructs hc => rw [State.take_phase, hp] at hc; exact absurd hc (by decide)
      | loads _ _ _ _ _ ht | answers _ _ _ ht | writesPixel _ _ _ _ _ _ _ _ _ _ _ _ ht => rw [ht]; exact hp
  | true =>
    cases h.actionNext hb hs with
    | goesOn _ _ _ _ _ _ ht | ends _ _ _ _ _ _ ht | fails _ _ _ _ _ ht => simp [ht, hp]
end

/-- The delay that ends a construction's reset sequence is its action 3. -/
theorem State.current_resetEnd {s : State} (hb : s.busy = true) (hl : s.seq.list = constructActions s.c)
    (hk : s.seq.k = 3) : s.current = some (.dly s.c.tRstHigh) := by
  rw [State.current, if_pos hb, hl, hk]
  rfl

/-- Settles O8, phase by phase. -/
theorem phaseChangesOnlyByTheTable : Obligations.PhaseChangesOnlyByTheTable := by
  intro s t h hs
  obtain ⟨hconstructing, hreset, hinitializing⟩ := constructPhase_eq_iff s.seq.k
  obtain ⟨-, hreset', hinitializing'⟩ := constructPhase_eq_iff (s.seq.k + 1)
  refine ⟨fun hp => ?_, fun hp => ?_, fun hp => ?_, fun hp => ?_, fun hp => h.ready_step hp hs⟩
  · rcases h.noDriver_step hp hs with ⟨hb, ht⟩ | ⟨hb, ht, hop⟩
    · simp [hb, ht]
    · simp [hb, ht, hop]
  all_goals
    have hin : inConstruction s.phase = true := by rw [hp]; rfl
    obtain ⟨hb, hl, hphase⟩ := h.construction hin
    have hk := hphase.symm.trans hp
  · have hk := hconstructing.1 hk
    refine ⟨hk, ?_⟩
    rcases h.construction_step hin hs with ⟨hb, ht⟩ | ⟨-, -, -, hlast⟩ | ⟨hb, ht, -⟩
    · rw [hb, ht, hk]; rfl
    · omega
    · rw [hb, ht]; rfl
  · have hk := hreset.1 hk
    rcases h.construction_step hin hs with ⟨hbt, ht⟩ | ⟨-, -, -, hlast⟩ | ⟨hbt, ht, -⟩
    · rw [hbt, if_pos rfl, ht]
      by_cases h3 : s.seq.k = 3
      · rw [if_pos ⟨State.current_resetEnd hb hl h3, h3⟩]
        exact hinitializing'.2 (by omega)
      · rw [if_neg fun hc => h3 hc.2]
        exact hreset'.2 (by omega)
    · omega
    · rw [hbt, ht]; rfl
  · have hk := hinitializing.1 hk
    rcases h.construction_step hin hs with ⟨hb, ht⟩ | ⟨hb, ht, hok, -⟩ | ⟨hb, ht, hok⟩
    · rw [hb, ht, if_pos rfl]
      exact hinitializing'.2 (by omega)
    · simp [hb, ht, hok]
    · simp [hb, ht, hok]

/-! ### `gwin` (spec/10_state.md R46) -/

theorem forgetsWindow_iff (op : Option Byte) :
    forgetsWindow op = true ↔ op = some opConstruct ∨ op = some opReset ∨ op = some opInit := by
  simp [forgetsWindow, or_assoc]

theorem forgetsWindow_of_sendsWindow {op : Option Byte} (h : sendsWindow op) : forgetsWindow op = false := by
  rcases h with rfl | rfl | rfl <;> decide

theorem gwinAfter_of_forgets {op : Option Byte} (hop : forgetsWindow op = true) (w : Option Rect) (g : Gwin)
    (v0 v1 : Word) : gwinAfter op w g (.ok v0 v1) = .unknown := if_pos hop

theorem gwinAfter_of_not_forgets {op : Option Byte} (hop : forgetsWindow op = false) (g : Gwin) (v0 v1 : Word) :
    (∀ r, gwinAfter op (some r) g (.ok v0 v1) = .rect r) ∧ gwinAfter op none g (.ok v0 v1) = g := by
  simp [gwinAfter, hop]

/-- A request with no external action, and the acceptance of any other, leave `gwin` and the trace. -/
theorem RequestNext.gwin_trace {i : Instr} {s t : State} (h : RequestNext i s t) :
    t.gwin = s.gwin ∧ t.trace = s.trace := by
  cases h with
  | constructs _ ht | loads _ _ _ _ _ ht | answers _ _ _ ht | writesPixel _ _ _ _ _ _ _ _ _ _ _ _ ht =>
    subst ht
    exact ⟨rfl, rfl⟩

section
variable {s : State} (h : s.Inv) (hb : s.busy = true)
include h hb

/-- A request that sends a window leaves the window sent when it completes with OK. -/
theorem State.Inv.gwinAfter_of_sends (hop : sendsWindow s.seq.op) (v0 v1 : Word) :
    ∃ r rest, gwinAfter s.seq.op s.seq.window s.gwin (.ok v0 v1) = .rect r ∧
      s.seq.list = windowActions s.c r ++ rest := by
  obtain ⟨-, -, -, -, -, hw⟩ := h
  rcases hw hb with ⟨-, hnot⟩ | ⟨-, r, rest, hr, hl⟩
  · exact absurd hop hnot
  · rw [hr]
    exact ⟨r, rest, (gwinAfter_of_not_forgets (forgetsWindow_of_sendsWindow hop) _ _ _).1 r, hl⟩

/-- A request that neither forgets nor sends a window leaves `gwin` when it completes with OK. -/
theorem State.Inv.gwinAfter_of_other (hop : forgetsWindow s.seq.op = false) (hsend : ¬ sendsWindow s.seq.op)
    (v0 v1 : Word) : gwinAfter s.seq.op s.seq.window s.gwin (.ok v0 v1) = s.gwin := by
  obtain ⟨-, -, -, -, -, hw⟩ := h
  rcases hw hb with ⟨hnone, -⟩ | ⟨hs, -⟩
  · rw [hnone]
    exact (gwinAfter_of_not_forgets hop _ _ _).2
  · exact absurd hs hsend
end

/-- Settles O10, by the ways a step can go. -/
theorem windowGhostFollowsCompletions : Obligations.WindowGhostFollowsCompletions := by
  intro s t h hs
  cases hb : s.busy with
  | false =>
    have hg : t.gwin = s.gwin := by
      rcases requestNext_of_idle hb hs with rfl | ⟨q, rest, i, -, -, hn⟩
      · rfl
      · exact hn.gwin_trace.1
    exact ⟨fun _ => hg, fun _ _ => hg, nofun⟩
  | true =>
    cases h.actionNext hb hs with
    | goesOn tr e f _ _ _ ht =>
      subst ht
      exact ⟨fun _ => rfl, nofun, fun _ hbt => absurd (hb.symm.trans hbt) (by decide)⟩
    | ends tr e f _ _ _ ht =>
      subst ht
      refine ⟨nofun, nofun, fun _ _ => ⟨fun hop => ?_, nofun, fun _ hop => h.gwinAfter_of_sends hb hop 0 0,
        fun _ hop => ?_⟩⟩
      · exact gwinAfter_of_forgets ((forgetsWindow_iff _).2 hop) _ _ 0 0
      · have hforgets : forgetsWindow s.seq.op = false := by
          rw [← Bool.not_eq_true, forgetsWindow_iff]
          exact fun hf => hop (hf.imp_right (Or.imp_right .inl))
        exact h.gwinAfter_of_other hb hforgets (fun hsend => hop (.inr (.inr (.inr hsend)))) 0 0
    | fails tr e _ o ho ht =>
      subst ht
      rcases ho with ⟨e, rfl⟩ | ⟨e, rfl⟩ <;>
        exact ⟨nofun, nofun, fun _ _ => ⟨fun _ => rfl, fun _ => rfl, nofun, nofun⟩⟩

/-! ### `trace` (spec/10_state.md R47) -/

@[simp] theorem State.performTx_trace (s : State) (x : Txn) :
    (s.performTx x).trace = s.trace ++ [Event.tx x s.txResponse] := by
  cases h : s.txResponse with
  | ok => simp [State.performTx_ok x h]
  | err e => simp [State.performTx_err x h]

@[simp] theorem State.performRst_trace (s : State) (l : Level) :
    (s.performRst l).trace = s.trace ++ [Event.rst l s.rstResponse] := by
  cases h : s.rstResponse with
  | ok => simp [State.performRst_ok l h]
  | err e => simp [State.performRst_err l h]

@[simp] theorem State.performDly_trace (s : State) (ms : Nat) : (s.performDly ms).trace = s.trace ++ [Event.dly ms] :=
  State.endAction_trace _

/-- Settles O11, by the ways a step can go. -/
theorem traceGetsOneEntryPerExternalAction : Obligations.TraceGetsOneEntryPerExternalAction := by
  intro s t hs
  cases stepNext_of_step hs with
  | waits hb _ ht => simp only [State.current_idle hb, ht]
  | accepts q rest i hb _ hd ht =>
    simp only [State.current_idle hb, (RequestNext.of_decodeReq hd ht).gwin_trace.2, State.take_trace]
  | transmits x i hc hd ht => simp only [hc, performTx_of_exec hd ht, State.performTx_trace]
  | drivesReset l hc ht => simp only [hc, ht, State.performRst_trace]
  | delays ms hc ht => simp only [hc, ht, State.performDly_trace]
  | writes off v hc ht =>
    obtain ⟨m, -, -, rfl⟩ := State.performFbw_next ht
    simp only [hc, State.endAction_trace, State.beginAction_trace]
  | completes _ hc ht => simp only [hc, ht, State.finish_trace]

/-! ### `RES`, the framebuffer and `BUSY` (spec/10_state.md R34, R39, R43) -/

/-- Settles O13: a request is in progress after a step only where one was loaded or its action was not the last. -/
theorem resultIsWrittenOnlyAtCompletion : Obligations.ResultIsWrittenOnlyAtCompletion := by
  intro s t hs hbt
  cases hb : s.busy with
  | false =>
    rcases requestNext_of_idle hb hs with rfl | ⟨q, rest, i, -, -, hn⟩
    · rfl
    · cases hn with
      | constructs _ ht | loads _ _ _ _ _ ht => subst ht; rfl
      | answers _ _ _ ht | writesPixel _ _ _ _ _ _ _ _ _ _ _ _ ht =>
        subst ht
        exact absurd (hb.symm.trans hbt) (by decide)
  | true =>
    cases hc : s.current with
    | none => rw [step_finish hb hc] at hs; cases hs; cases hbt
    | some a =>
      cases ActionNext.of_step hc hs with
      | goesOn _ _ _ _ _ _ ht => subst ht; rfl
      | ends _ _ _ _ _ _ ht | fails _ _ _ _ _ ht => subst ht; cases hbt

/-- In READY, an action in progress leaves the framebuffer, whether it goes on, ends or fails. -/
theorem State.Inv.action_fb {s t : State} (h : s.Inv) (hp : s.phase = .ready) (hn : ActionNext s t) : t.fb = s.fb := by
  cases hn with
  | goesOn _ _ _ _ hf _ ht => subst ht; exact hf.resolve_right h.not_at_fbw
  | ends _ _ _ _ hf _ ht => simp [ht, hf.resolve_right h.not_at_fbw]
  | fails _ _ _ _ _ ht => simp [ht, hp]

/-- Settles O14: the only way of a step that writes the framebuffer in READY is the acceptance of a WRITE_PIXEL. -/
theorem onlyWritePixelChangesTheFramebuffer : Obligations.OnlyWritePixelChangesTheFramebuffer := by
  intro s t h hp hs hne
  cases hb : s.busy with
  | false =>
    rcases requestNext_of_idle hb hs with rfl | ⟨q, rest, i, hh, hd, hn⟩
    · exact absurd rfl hne
    · cases hn with
      | constructs hc => rw [State.take_phase, hp] at hc; exact absurd hc (by decide)
      | loads _ _ _ _ _ ht | answers _ _ _ ht => subst ht; exact absurd rfl hne
      | writesPixel x y r g b _ _ _ hi => exact ⟨rfl, q, rest, x, y, r, g, b, hh, hi ▸ hd⟩
  | true => exact absurd (h.action_fb hp (h.actionNext hb hs)) hne

/-- A step of a request in progress leaves the host's requests, the latches and `seq.op`. -/
theorem request_of_busy_step {s t : State} (hb : s.busy = true) (hs : step s = .next t) :
    t.env.host = s.env.host ∧ t.req = s.req ∧ t.seq.op = s.seq.op := by
  cases hc : s.current with
  | none => rw [step_finish hb hc] at hs; cases hs; exact ⟨rfl, rfl, rfl⟩
  | some a =>
    cases ActionNext.of_step hc hs with
    | goesOn _ _ _ hh _ _ ht | ends _ _ _ hh _ _ ht | fails _ _ hh _ _ ht => subst ht; exact ⟨hh, rfl, rfl⟩

theorem State.writePixel_busy {s : State} (hb : s.busy = true) (x y : Word) (r g b : Byte) :
    s.writePixel x y r g b = .refused .busy :=
  State.request_busy hb _ _

/-- A request made while another is in progress is refused. -/
theorem exec_busy {s : State} {i : Instr} (hb : s.busy = true) (hi : (∃ q, encodeReq i = some q) ∨ i = .fullWindow) :
    exec i s = .refused .busy := by
  cases i with
  | construct | reset | init | writePixel | getSize | fbSize | flushFull | flushPartial | sleepIn | sleepOut | displayOn
  | displayOff | setMadctl | setBrightness | setWindow => exact State.request_busy hb _ _
  | fullWindow => exact State.request_busy (s := s.latch _) hb _ _
  | drawIter | slpout | slpin | colmod | teoff | dispon | dispoff | bright | madctl | caset | raset | ramwr | ramwrc
  | mfrEntry =>
    rcases hi with ⟨q, hq⟩ | hi
    · cases hq
    · cases hi

/-- Settles O22, by what a step of a request in progress leaves and what `State.request` refuses. -/
theorem noRequestIsAcceptedWhileBusy : Obligations.NoRequestIsAcceptedWhileBusy := by
  intro s hb
  refine ⟨fun t hs => request_of_busy_step hb hs, fun i hi => exec_busy hb hi, fun p rest => ?_⟩
  show execDrawIter (p :: rest) s = _
  rw [execDrawIter, State.writePixel_busy (by exact hb)]

/-! ### CONSTRUCT accepted (spec/42_lifecycle.md R210, R211) -/

theorem initSeq_eq (c : Cfg) :
    initSeq c = ([.tx (txnCommand c c.cmdSlpout []), .dly c.tInitSlpout] : List Action) ++
      (c.mfrInit.map fun e => .tx (txnCommand c e.1 e.2)) ++
      ([.tx (txnCommand c c.cmdColmod [c.pixfmt c.mode]), .tx (txnCommand c c.cmdTeoff []),
        .tx (txnCommand c c.cmdDispon []), .dly c.tInitDispon,
        .tx (txnCommand c c.cmdBright [c.brightMax])] : List Action) := by
  simp [initSeq, mfrActions_map, sendCommand, sendCommandData]

/-- Settles O37: the request is admitted, and its framebuffer is `Memory.ofBytes` of the draw. -/
theorem constructIsAccepted : Obligations.ConstructIsAccepted := by
  intro s hb hp first entries last
  obtain ⟨hwf, hread⟩ := Memory.ofBytes_spec (Config.fbInit s.env.draws) s.c.fblen
  have hlist : constructActions s.c = first ++ entries ++ last := by
    rw [constructActions, initSeq_eq]
    rfl
  refine ⟨s.freshFb, ?_, fun a ha => (hread a).trans (if_pos ha), fun a ha => (hread a).trans (if_neg (by omega)), hwf⟩
  refine (State.request_accepted hb ((admitted_construct _).2 hp) _).trans ?_
  rw [hlist]
  rfl

end Sys2Proof.Machine

/-! ### Runs in which every answer is `Ok` (spec/40_protocol.md R165) -/

namespace Sys2Proof.Machine

theorem run_of_step {M : Host.Core} {s t : M.State} (h : M.step s = .next t) (n : Nat) :
    M.run (n + 1) s = M.run n t := by
  rw [Host.Core.run, h]

theorem count_tx (x : Txn) (l : List Action) :
    txCount (.tx x :: l) = txCount l + 1 ∧ rstCount (.tx x :: l) = rstCount l := by
  simp [txCount, rstCount]

theorem count_rst (v : Level) (l : List Action) :
    txCount (.rst v :: l) = txCount l ∧ rstCount (.rst v :: l) = rstCount l + 1 := by
  simp [txCount, rstCount]

theorem count_dly (ms : Nat) (l : List Action) :
    txCount (.dly ms :: l) = txCount l ∧ rstCount (.dly ms :: l) = rstCount l := by
  simp [txCount, rstCount]

theorem okThen_append (l l' : List Action) (e : Env) :
    okThen (txCount (l ++ l')) (rstCount (l ++ l')) e =
      okThen (txCount l) (rstCount l) (okThen (txCount l') (rstCount l') e) := by
  simp only [okThen, txCount, rstCount, List.countP_append, List.replicate_add, List.append_assoc]

section
variable {s : State} {n k : Nat} {e : Env}

theorem State.txResponse_okThen (he : s.env = okThen (n + 1) k e) :
    s.txResponse = .ok ∧ s.env.afterTx = okThen n k e := by
  simp [State.txResponse, Env.afterTx, he, okThen, List.replicate_succ]

theorem State.rstResponse_okThen (he : s.env = okThen n (k + 1) e) :
    s.rstResponse = .ok ∧ s.env.afterRst = okThen n k e := by
  simp [State.rstResponse, Env.afterRst, he, okThen, List.replicate_succ]

end

/-- The first action still to come is the current one, and one the request may have. -/
theorem State.Inv.current_of_drop {s : State} (h : s.Inv) (hb : s.busy = true) {a : Action} {l : List Action}
    (hl : s.seq.list.drop s.seq.k = a :: l) : s.current = some a ∧ allowed s.c s.seq.op a := by
  obtain ⟨-, -, -, hs, -, -⟩ := h
  refine ⟨?_, (hs hb).2 a (List.mem_of_mem_drop (hl ▸ List.mem_cons_self))⟩
  rw [State.current, if_pos hb, ← List.head?_drop, hl]
  rfl

/-- The first action still to come, when the environment answers it `Ok`: its entry goes into the trace, and the
environment is left with the answers to the actions behind it. -/
theorem State.Inv.step_ok {s : State} (h : s.Inv) (hb : s.busy = true) {a : Action} {l l' : List Action} {e : Env}
    (hl : s.seq.list.drop s.seq.k = a :: l') (he : s.env = okThen (txCount (a :: l)) (rstCount (a :: l)) e) :
    step s = .next (s.acted (s.trace ++ (okEvent a).toList) (okThen (txCount l) (rstCount l) e) s.fb).endAction := by
  obtain ⟨hc, ha⟩ := h.current_of_drop hb hl
  cases a with
  | tx x =>
    obtain ⟨i, hi⟩ := Option.isSome_iff_exists.1 ha
    rw [(count_tx x l).1, (count_tx x l).2] at he
    obtain ⟨hok, henv⟩ := State.txResponse_okThen he
    rw [step_tx hc hi, State.performTx_ok x hok, henv]
    rfl
  | rst v =>
    rw [(count_rst v l).1, (count_rst v l).2] at he
    obtain ⟨hok, henv⟩ := State.rstResponse_okThen he
    rw [step_rst hc, State.performRst_ok v hok, henv]
    rfl
  | dly ms =>
    rw [(count_dly ms l).1, (count_dly ms l).2] at he
    rw [step_dly hc, ← he]
    rfl
  | fbw off v => exact ha.elim

/-- The state `u` is `s` with the actions `done` performed, each answered `Ok`, and its request still in progress. -/
structure State.Performed (s : State) (done : List Action) (e : Env) (u : State) : Prop where
  inv : u.Inv
  busy : u.busy = true
  seq : u.seq = { s.seq with k := s.seq.k + done.length }
  trace : u.trace = s.trace ++ done.filterMap okEvent
  env : u.env = e
  fb : u.fb = s.fb
  gwin : u.gwin = s.gwin
  cfg : u.cfg = s.cfg
  req : u.req = s.req

/-- The actions before one that is still to come are performed one a step, and then the run goes on: by induction on
these actions. -/
theorem State.Inv.run_performs {done : List Action} : ∀ {s : State} {todo : List Action} {e : Env}, s.Inv →
    s.busy = true → s.seq.list.drop s.seq.k = done ++ todo → todo ≠ [] →
    s.env = okThen (txCount done) (rstCount done) e →
    ∃ u, s.Performed done e u ∧ ∀ n, Host.Core.run core (done.length + n) s = Host.Core.run core n u := by
  induction done with
  | nil =>
    intro s todo e h hb _ _ he
    refine ⟨s, ⟨h, hb, rfl, (List.append_nil _).symm, he, rfl, rfl, rfl, rfl⟩, fun n => ?_⟩
    rw [List.length_nil, Nat.zero_add]
  | cons a done ih =>
    intro s todo e h hb hl htodo he
    have hlen : s.seq.k + 1 < s.seq.list.length := by
      have hlen := congrArg List.length hl
      have := List.length_pos_iff.2 htodo
      simp only [List.length_drop, List.length_append, List.length_cons] at hlen
      omega
    have hstep := (h.step_ok hb hl he).trans (congrArg Host.Outcome.next (State.endAction_more hlen))
    have hdrop : s.seq.list.drop (s.seq.k + 1) = done ++ todo := by
      rw [← List.drop_drop, hl]
      rfl
    obtain ⟨u, hu, hrun⟩ := ih (h.advance hb hlen (s.trace ++ (okEvent a).toList) _) hb hdrop htodo rfl
    refine ⟨u, ⟨hu.inv, hu.busy, ?_, ?_, hu.env, hu.fb, hu.gwin, hu.cfg, hu.req⟩, fun n => ?_⟩
    · rw [hu.seq]
      simp [Nat.add_assoc, Nat.add_comm 1]
    · simp [hu.trace, List.filterMap_eq_flatMap_toList]
    · rw [List.length_cons, Nat.add_right_comm]
      exact (run_of_step (M := core) hstep _).trans (hrun n)

/-- Settles O33: all actions but the last by `State.Inv.run_performs`, and then the last. -/
theorem requestRunsToCompletion : Obligations.RequestRunsToCompletion := by
  intro s e h hb he
  obtain ⟨done, a, hl⟩ : ∃ done a, s.seq.list.drop s.seq.k = done ++ [a] := by
    obtain ⟨-, -, -, hs, -, -⟩ := h
    refine (List.eq_nil_or_concat' _).resolve_left fun hnil => ?_
    exact absurd (hs hb).1 (Nat.not_lt.2 (List.drop_eq_nil_iff.1 hnil))
  rw [hl, okThen_append] at he
  obtain ⟨u, hu, hrun⟩ := h.run_performs hb hl (List.cons_ne_nil _ _) he
  have hdrop : u.seq.list.drop u.seq.k = [a] := by
    rw [hu.seq, ← List.drop_drop, hl, List.drop_left]
  have hlast : u.seq.list.length ≤ u.seq.k + 1 := by
    have hlen := congrArg List.length hdrop
    rw [List.length_drop, List.length_singleton] at hlen
    omega
  have hstep : step u = .next ((u.acted (u.trace ++ (okEvent a).toList) e u.fb).advance.finish (.ok 0 0)) :=
    (hu.inv.step_ok hu.busy hdrop hu.env).trans (congrArg Host.Outcome.next (State.endAction_last hlast))
  have hsteps : s.seq.list.length - s.seq.k = done.length + 1 := by
    rw [← List.length_drop, hl, List.length_append, List.length_singleton]
  refine ⟨(u.acted (u.trace ++ (okEvent a).toList) e u.fb).advance.finish (.ok 0 0), ?_, rfl, rfl, ?_,
    hu.inv.phase_at_last hu.busy hlast 0 0, ?_, hu.cfg, hu.req, rfl, ?_⟩
  · rw [hsteps, hrun 1]
    exact run_of_step (M := core) hstep 0
  · rw [hl]
    simp [hu.trace, List.filterMap_eq_flatMap_toList]
  · simp [hu.fb]
  · have hg : gwinAfter u.seq.op u.seq.window u.gwin (.ok 0 0) = gwinAfter s.seq.op s.seq.window s.gwin (.ok 0 0) := by
      rw [hu.seq, hu.gwin]
    exact hg

end Sys2Proof.Machine

/-! ### `gwin` is a ghost (spec/10_state.md R45): each operation answers alike from two states equal but for it -/

namespace Sys2Proof.Machine

/-- The state with another `gwin`. -/
def State.withGwin (s : State) (g : Gwin) : State := { s with gwin := g }

/-- The two outcomes are of one kind, with the same reason, or with next states equal but for `gwin`. -/
inductive SameButGwin : Out → Out → Prop where
  | next (t : State) (g : Gwin) : SameButGwin (.next t) (.next (t.withGwin g))
  | fault (f : Fault) : SameButGwin (.fault f) (.fault f)
  | refused (r : Refusal) : SameButGwin (.refused r) (.refused r)

section
variable (s : State) (g : Gwin)

/-- A completion writes `gwin` and nothing else that depends on it. -/
theorem State.finish_withGwin (o : Completion) :
    (s.withGwin g).finish o = (s.finish o).withGwin (gwinAfter s.seq.op s.seq.window g o) := rfl

theorem State.endAction_withGwin : ∃ g', (s.withGwin g).endAction = s.endAction.withGwin g' := by
  rcases Nat.lt_or_ge (s.seq.k + 1) s.seq.list.length with hk | hk
  · rw [State.endAction_more hk, State.endAction_more (s := s.withGwin g) hk]
    exact ⟨g, rfl⟩
  · rw [State.endAction_last hk, State.endAction_last (s := s.withGwin g) hk]
    exact ⟨_, s.advance.finish_withGwin g _⟩

theorem State.performTx_withGwin (x : Txn) : ∃ g', (s.withGwin g).performTx x = (s.performTx x).withGwin g' := by
  cases h : s.txResponse with
  | ok =>
    rw [State.performTx_ok x h, State.performTx_ok (s := s.withGwin g) x h]
    exact State.endAction_withGwin (s.acted (s.trace ++ [Event.tx x .ok]) s.env.afterTx s.fb) g
  | err e =>
    rw [State.performTx_err x h, State.performTx_err (s := s.withGwin g) x h]
    exact ⟨_, State.finish_withGwin (s.acted (s.trace ++ [Event.tx x (.err e)]) s.env.afterTx s.fb) g _⟩

theorem State.performRst_withGwin (l : Level) : ∃ g', (s.withGwin g).performRst l = (s.performRst l).withGwin g' := by
  cases h : s.rstResponse with
  | ok =>
    rw [State.performRst_ok l h, State.performRst_ok (s := s.withGwin g) l h]
    exact State.endAction_withGwin (s.acted (s.trace ++ [Event.rst l .ok]) s.env.afterRst s.fb) g
  | err e =>
    rw [State.performRst_err l h, State.performRst_err (s := s.withGwin g) l h]
    exact ⟨_, State.finish_withGwin (s.acted (s.trace ++ [Event.rst l (.err e)]) s.env.afterRst s.fb) g _⟩

theorem State.performDly_withGwin (ms : Nat) : ∃ g', (s.withGwin g).performDly ms = (s.performDly ms).withGwin g' :=
  State.endAction_withGwin (s.acted (s.trace ++ [Event.dly ms]) s.env s.fb) g

end

namespace SameButGwin

theorem of_exists {t t' : State} (h : ∃ g, t' = t.withGwin g) : SameButGwin (.next t) (.next t') := by
  obtain ⟨g, rfl⟩ := h
  exact .next t g

theorem request {s : State} {g : Gwin} {op : Byte} {o o' : Out} (h : SameButGwin o o') :
    SameButGwin (s.request op o) ((s.withGwin g).request op o') := by
  unfold State.request
  show SameButGwin _ (if s.busy then _ else if admitted op s.phase then _ else _)
  split
  · exact .refused _
  · split
    · exact h
    · exact .refused _

theorem emit (s : State) (g : Gwin) (x : Txn) : SameButGwin (s.emit x) ((s.withGwin g).emit x) := by
  by_cases hc : s.current = some (.tx x)
  · rw [State.emit_current hc, State.emit_current (s := s.withGwin g) hc]
    exact of_exists (s.performTx_withGwin g x)
  · rw [State.emit, if_neg hc, State.emit, if_neg (show ¬ (s.withGwin g).current = _ from hc)]
    exact .refused _

theorem performFbw (s : State) (g : Gwin) (off : Nat) (v : Bytes) :
    SameButGwin (s.performFbw off v) ((s.withGwin g).performFbw off v) := by
  cases hf : s.fb with
  | none =>
    rw [State.performFbw_absent hf, State.performFbw_absent (s := s.withGwin g) hf]
    exact .fault _
  | some m =>
    by_cases hl : off + v.length ≤ s.c.fblen
    · rw [State.performFbw_inside hf hl, State.performFbw_inside (s := s.withGwin g) hf hl]
      exact of_exists (State.endAction_withGwin (s.acted s.trace s.env (some (Memory.writeBytes m off v))) g)
    · rw [State.performFbw_outside hf hl, State.performFbw_outside (s := s.withGwin g) hf hl]
      exact .fault _

theorem answer (s : State) (g : Gwin) (op : Byte) (v0 v1 : Word) :
    SameButGwin (.next (s.answer op v0 v1)) (.next ((s.withGwin g).answer op v0 v1)) :=
  of_exists ⟨_, State.finish_withGwin (s.load op none []) g _⟩

theorem writePixel (s : State) (g : Gwin) (x y : Word) (r c b : Byte) :
    SameButGwin (s.writePixel x y r c b) ((s.withGwin g).writePixel x y r c b) := by
  cases hw : pixelWrite s.c x y r c b with
  | none =>
    rw [State.writePixel_clipped hw, State.writePixel_clipped (s := s.withGwin g) hw]
    exact .request (answer s g _ _ _)
  | some w =>
    rw [State.writePixel_inside hw, State.writePixel_inside (s := s.withGwin g) hw]
    exact .request (performFbw (s.load opWritePixel none [.fbw w.1 w.2]) g w.1 w.2)

/-- By induction on the pixels: after each write the states are equal but for `gwin` again. -/
theorem drawIter (pixels : List Pixel) (s : State) (g : Gwin) :
    SameButGwin (execDrawIter pixels s) (execDrawIter pixels (s.withGwin g)) := by
  induction pixels generalizing s g with
  | nil => exact .next s g
  | cons p rest ih =>
    have hp : SameButGwin ((s.latch (reqWritePixel p.x p.y p.r p.g p.b)).writePixel p.x p.y p.r p.g p.b)
        (((s.withGwin g).latch (reqWritePixel p.x p.y p.r p.g p.b)).writePixel p.x p.y p.r p.g p.b) :=
      writePixel (s.latch _) g _ _ _ _ _
    rw [execDrawIter, execDrawIter]
    generalize (s.latch _).writePixel _ _ _ _ _ = o at hp ⊢
    generalize ((s.withGwin g).latch _).writePixel _ _ _ _ _ = o' at hp ⊢
    cases hp with
    | next t g' => exact ih t g'
    | fault f => exact .fault f
    | refused r => exact .refused r

theorem flushFull (s : State) (g : Gwin) : SameButGwin (execFlushFull s) (execFlushFull (s.withGwin g)) := by
  cases hf : s.fb with
  | none =>
    rw [execFlushFull_absent hf, execFlushFull_absent (s := s.withGwin g) hf]
    exact .request (.fault _)
  | some m =>
    rw [execFlushFull_present hf, execFlushFull_present (s := s.withGwin g) hf]
    exact .request (.next _ g)

theorem flushPartial (xs xe ys ye : Half) (mode : ColorMode) (s : State) (g : Gwin) :
    SameButGwin (execFlushPartial xs xe ys ye mode s) (execFlushPartial xs xe ys ye mode (s.withGwin g)) := by
  cases hf : s.fb with
  | none =>
    rw [execFlushPartial_absent hf, execFlushPartial_absent (s := s.withGwin g) hf]
    exact .request (.fault _)
  | some m =>
    cases hl : partialFlush s.c m ⟨xs, ys, xe, ye⟩ mode with
    | some list =>
      rw [execFlushPartial_loads hf hl, execFlushPartial_loads (s := s.withGwin g) hf hl]
      exact .request (.next _ g)
    | none =>
      rw [execFlushPartial_rejects hf hl, execFlushPartial_rejects (s := s.withGwin g) hf hl]
      exact .request (of_exists
        ⟨_, State.finish_withGwin { s with seq := { s.seq with op := some opFlushPartial } } g .invalidConfiguration⟩)

/-- No instruction tells the two states apart: a transaction by `State.emit`, a request by what it loads or answers. -/
theorem exec (i : Instr) (s : State) (g : Gwin) : SameButGwin (exec i s) (exec i (s.withGwin g)) := by
  cases i with
  | writePixel x y r c b => exact writePixel s g x y r c b
  | drawIter pixels => exact drawIter pixels s g
  | flushFull => exact flushFull s g
  | flushPartial xs xe ys ye mode => exact flushPartial xs xe ys ye mode s g
  | getSize | fbSize => exact .request (answer s g _ _ _)
  | construct | reset | init | sleepIn | sleepOut | displayOn | displayOff | setMadctl | setBrightness | setWindow
  | fullWindow => exact .request (.next _ g)
  | slpout | slpin | colmod | teoff | dispon | dispoff | bright | madctl | caset | raset | ramwr | ramwrc
  | mfrEntry => exact emit s g _

/-- Both states find the same to do, as what a step does is found without `gwin`. -/
theorem step (s : State) (g : Gwin) : SameButGwin (step s) (step (s.withGwin g)) := by
  cases hb : s.busy with
  | false =>
    cases hh : s.env.host with
    | nil =>
      rw [step_waits hb hh, step_waits (s := s.withGwin g) hb hh]
      exact .next s g
    | cons q rest =>
      cases hd : decodeReq q with
      | error e =>
        rw [step_badRequest hb hh hd, step_badRequest (s := s.withGwin g) hb hh hd]
        exact .refused _
      | ok i =>
        rw [stepRunsTheNextRequest s q rest i hb hh hd, stepRunsTheNextRequest (s.withGwin g) q rest i hb hh hd]
        exact exec i _ g
  | true =>
    cases hc : s.current with
    | none =>
      rw [step_finish hb hc, step_finish (s := s.withGwin g) hb hc]
      exact of_exists ⟨_, s.finish_withGwin g _⟩
    | some a =>
      cases a with
      | tx x =>
        cases hd : decodeTxn s.c x with
        | none =>
          rw [step_neverEmitted hc hd, step_neverEmitted (s := s.withGwin g) hc hd]
          exact .refused _
        | some i =>
          rw [step_tx hc hd, step_tx (s := s.withGwin g) hc hd]
          exact of_exists (s.performTx_withGwin g x)
      | rst l =>
        rw [step_rst hc, step_rst (s := s.withGwin g) hc]
        exact of_exists (s.performRst_withGwin g l)
      | dly ms =>
        rw [step_dly hc, step_dly (s := s.withGwin g) hc]
        exact of_exists (s.performDly_withGwin g ms)
      | fbw off v =>
        rw [step_fbw hc, step_fbw (s := s.withGwin g) hc]
        exact performFbw s g off v

end SameButGwin

/-- Settles O9, outcome by outcome. -/
theorem windowGhostIsNeverRead : Obligations.WindowGhostIsNeverRead := by
  intro s g
  have h : SameButGwin (step s) (step { s with gwin := g }) := SameButGwin.step s g
  generalize step { s with gwin := g } = o at h ⊢
  refine ⟨fun t ht => ?_, fun f hf => ?_, fun r hr => ?_⟩
  · rw [ht] at h
    cases h with
    | next _ g' => exact ⟨g', rfl⟩
  · rw [hf] at h
    cases h
    rfl
  · rw [hr] at h
    cases h
    rfl

end Sys2Proof.Machine

/-! ### The framebuffer and what a flush sends of it (spec/20_memory.md R71, R72, R80, R84) -/

namespace Sys2Proof.Machine

/-- A transaction row is refused when its transaction is not the current action. -/
theorem State.emit_notCurrent {s : State} {x : Txn} (hc : s.current ≠ some (.tx x)) :
    s.emit x = .refused .notCurrent :=
  if_neg hc

/-- Settles O30: every transaction row is `State.emit` of its transaction. -/
theorem transactionsNeverRunOutOfTurn : Obligations.TransactionsNeverRunOutOfTurn := by
  intro s i x hx hc
  rw [exec_of_encodeTxn hx, State.emit_notCurrent hc]

@[simp] theorem Memory.length_readBytes (m : Memory) (off n : Nat) : (Memory.readBytes m off n).length = n := by
  simp [Memory.readBytes]

@[simp] theorem Memory.getElem_readBytes {m : Memory} {off n i : Nat} (h : i < (Memory.readBytes m off n).length) :
    (Memory.readBytes m off n)[i] = Memory.read m (off + i) := by
  simp [Memory.readBytes]

/-- Bytes just written read back. -/
theorem Memory.readBytes_writeBytes {m : Memory} (hw : Memory.wf m = true) (off : Nat) (v : Bytes) :
    Memory.readBytes (Memory.writeBytes m off v) off v.length = v := by
  refine List.ext_getElem (Memory.length_readBytes _ _ _) fun i _ hi => ?_
  rw [Memory.getElem_readBytes, Memory.read_writeBytes hw, if_pos (by omega), Nat.add_sub_cancel_left,
    List.getD_eq_getElem v 0 hi]

/-- Settles O41, by what a read gives after consecutive bytes are set. -/
theorem framebufferReadAfterWrite : Obligations.FramebufferReadAfterWrite := by
  intro m off v hw
  refine ⟨Memory.wf_writeBytes hw, Memory.readBytes_writeBytes hw off v, fun a ha => ?_⟩
  rw [Memory.read_writeBytes hw, if_neg ha]

/-- Part of the bytes read is what a read of that part gives. -/
theorem Memory.take_drop_readBytes (m : Memory) (off : Nat) {i k n : Nat} (h : i + k ≤ n) :
    ((Memory.readBytes m off n).drop i).take k = Memory.readBytes m (off + i) k := by
  refine List.ext_getElem ?_ fun j _ _ => ?_
  · simp only [List.length_take, List.length_drop, Memory.length_readBytes]
    omega
  · rw [List.getElem_take, List.getElem_drop, Memory.getElem_readBytes, Memory.getElem_readBytes, Nat.add_assoc]

/-- In equally long blocks laid end to end, what lies within block `k` is read from that block: by induction on the
blocks before it. -/
theorem take_drop_flatMap {α : Type} {f : α → Bytes} {len : Nat} (hf : ∀ a, (f a).length = len) {i n : Nat}
    (hi : i + n ≤ len) : ∀ {l : List α} {k : Nat} (hk : k < l.length),
      ((l.flatMap f).drop (k * len + i)).take n = ((f l[k]).drop i).take n
  | a :: l, 0, _ => by
    rw [Nat.zero_mul, Nat.zero_add, List.flatMap_cons, List.drop_append_of_le_length (by rw [hf]; omega),
      List.take_append_of_le_length (by rw [List.length_drop, hf]; omega)]
    rfl
  | a :: l, k + 1, hk => by
    have hskip : (k + 1) * len + i = (f a).length + (k * len + i) := by rw [hf, Nat.succ_mul]; omega
    rw [List.flatMap_cons, hskip, List.drop_length_add_append, take_drop_flatMap hf hi (Nat.lt_of_succ_lt_succ hk)]
    rfl

/-! ### The burst of a flush -/

/-- The window of a flush holds no pixel, and the chunks of its burst, joined, are its payload (R150). -/
theorem flatten_pixelPayloads_flushActions {c : Cfg} (hc : 1 ≤ c.maxChunk) (r : Rect) (p : Bytes) :
    (pixelPayloads (flushActions c r p)).flatten = p := by
  have hchunks : pixelPayloads (flushActions c r p) =
      (List.range (ceilDiv p.length c.maxChunk)).map (chunkAt c.maxChunk p) := by
    simp [pixelPayloads, flushActions, windowActions, sendCommandData, sendPixels, txnCommand, txnPixels,
      List.filterMap_map]
  rw [hchunks, chunks_flatten, List.take_of_length_le (le_ceilDiv_mul _ hc)]

/-- An accepted full flush sends the whole framebuffer (R260). -/
theorem execFlushFull_next {s t : State} {m : Memory} (hf : s.fb = some m) (h : execFlushFull s = .next t) :
    t.seq.list = flushActions s.c (fullWindow s.c) (Memory.readBytes m 0 s.c.fblen) := by
  rw [execFlushFull_present hf] at h
  obtain ⟨-, -, ht⟩ := State.request_next h
  cases ht
  rfl

/-- A partial flush that expands to a list sends the rows it gathers (R265, R271). -/
theorem partialFlush_gathers {c : Cfg} {m : Memory} {r : Rect} {mode : ColorMode} {list : List Action}
    (h : partialFlush c m r mode = some list) :
    ∃ p, gatherRows c m r mode (windowRows r) = some p ∧ list = flushActions c r p := by
  unfold partialFlush at h
  split at h
  · split at h
    · next p hp => exact ⟨p, hp, (Option.some.inj h).symm⟩
    · cases h
  · cases h

/-- A partial flush that leaves the block busy was not rejected, and sends the rows it gathers. -/
theorem execFlushPartial_busy {s t : State} {m : Memory} {xs xe ys ye : Half} {mode : ColorMode} (hf : s.fb = some m)
    (h : execFlushPartial xs xe ys ye mode s = .next t) (hb : t.busy = true) :
    ∃ p, gatherRows s.c m ⟨xs, ys, xe, ye⟩ mode (windowRows ⟨xs, ys, xe, ye⟩) = some p ∧
      t.seq.list = flushActions s.c ⟨xs, ys, xe, ye⟩ p := by
  cases hl : partialFlush s.c m ⟨xs, ys, xe, ye⟩ mode with
  | none =>
    rw [execFlushPartial_rejects hf hl] at h
    obtain ⟨-, -, ht⟩ := State.request_next h
    cases ht
    cases hb
  | some list =>
    rw [execFlushPartial_loads hf hl] at h
    obtain ⟨-, -, ht⟩ := State.request_next h
    cases ht
    exact partialFlush_gathers hl

/-! ### Where the controller stores it (R84, R276) -/

/-- Pixel `j` of the payload, for every `j` of the window, is the framebuffer's pixel at the cell where the controller
stores pixel `j`. -/
def PixelsAtOwnCells (c : Cfg) (m : Memory) (r : Rect) (p : Bytes) : Prop :=
  ∀ j, j < (r.xe.toNat + 1 - r.xs.toNat) * (r.ye.toNat + 1 - r.ys.toNat) →
    (p.drop (j * c.mode.bpp)).take c.mode.bpp =
      Memory.readBytes m (((controllerCell r j).2 * c.w.toNat + (controllerCell r j).1) * c.mode.bpp) c.mode.bpp

/-- The last column of the whole panel is `W - 1` and its last row `H - 1`, with no wrap: neither size is 0 (R9). -/
theorem fullWindow_size {c : Cfg} (hw : c.wf = true) :
    (fullWindow c).xe.toNat + 1 = c.w.toNat ∧ (fullWindow c).ye.toNat + 1 = c.h.toNat := by
  obtain ⟨hw, hh, -⟩ := (wf_iff c).1 hw
  unfold fullWindow
  bv_omega

/-- In the whole panel, pixel `j` is the framebuffer's pixel number `j`: the cells are counted row by row. -/
theorem pixelsAtOwnCells_full {c : Cfg} (hw : c.wf = true) (m : Memory) :
    PixelsAtOwnCells c m (fullWindow c) (Memory.readBytes m 0 c.fblen) := by
  obtain ⟨hxe, hye⟩ := fullWindow_size hw
  have hxs : (fullWindow c).xs.toNat = 0 := rfl
  have hys : (fullWindow c).ys.toNat = 0 := rfl
  intro j hj
  rw [hxe, hye, hxs, hys, Nat.sub_zero, Nat.sub_zero] at hj
  have hcell : (controllerCell (fullWindow c) j).2 * c.w.toNat + (controllerCell (fullWindow c) j).1 = j := by
    simp only [controllerCell, hxe, hxs, hys, Nat.sub_zero, Nat.zero_add]
    exact Nat.div_add_mod' j c.w.toNat
  have hlast : j * c.mode.bpp + c.mode.bpp ≤ c.fblen := by
    rw [← Nat.succ_mul]
    exact Nat.mul_le_mul_right _ hj
  rw [hcell, Memory.take_drop_readBytes m 0 hlast, Nat.zero_add]

/-- In the gathered rows of a window, pixel `j` lies in row `j / width`, at column `j % width`. -/
theorem pixelsAtOwnCells_gatherRows {c : Cfg} {m : Memory} {r : Rect} {p : Bytes}
    (h : gatherRows c m r c.mode (windowRows r) = some p) : PixelsAtOwnCells c m r p := by
  intro j hj
  rw [gatherRows_some h]
  generalize hwidth : r.xe.toNat + 1 - r.xs.toNat = width at hj
  have hlen : rowLength r c.mode = width * c.mode.bpp := by rw [rowLength, hwidth]
  have hpos : 0 < width := Nat.pos_of_mul_pos_right (Nat.zero_lt_of_lt hj)
  have hrow : j / width < (windowRows r).length := by
    simpa [windowRows] using Nat.div_lt_of_lt_mul hj
  have hy : (windowRows r)[j / width] = r.ys.toNat + j / width := by simp [windowRows]
  have hfirst : j * c.mode.bpp = j / width * rowLength r c.mode + j % width * c.mode.bpp := by
    rw [hlen, ← Nat.mul_assoc, ← Nat.add_mul, Nat.div_add_mod']
  have hlast : j % width * c.mode.bpp + c.mode.bpp ≤ rowLength r c.mode := by
    rw [hlen, ← Nat.succ_mul]
    exact Nat.mul_le_mul_right _ (Nat.mod_lt j hpos)
  rw [hfirst, take_drop_flatMap (fun y => Memory.length_readBytes m _ _) hlast hrow, hy,
    Memory.take_drop_readBytes m _ hlast]
  simp only [rowOffset, pixelOffset, controllerCell, hwidth, ← Nat.add_mul, Nat.add_assoc]

/-- Settles O55: the burst, joined, is the payload, and its pixels are the framebuffer's at their own cells. -/
theorem flushedPixelsLandOnTheirOwnCells : Obligations.FlushedPixelsLandOnTheirOwnCells := by
  intro s t m i r hf h hb hi
  rcases hi with ⟨rfl, rfl⟩ | ⟨rfl, -⟩
  · rw [execFlushFull_next hf h, flatten_pixelPayloads_flushActions s.maxChunk_pos]
    exact pixelsAtOwnCells_full s.cfg.ok m
  · obtain ⟨p, hp, hlist⟩ := execFlushPartial_busy hf h hb
    rw [hlist, flatten_pixelPayloads_flushActions s.maxChunk_pos]
    exact pixelsAtOwnCells_gatherRows hp

end Sys2Proof.Machine

/-! ### The words of a request (spec/30_encoding.md R120 to R129) -/

namespace Sys2Proof.Machine

/-- The words are those of the instruction's encoding, but for the operand words that it does not use. -/
def IsEncoding (q : Req) (i : Instr) : Prop :=
  ∃ p, encodeReq i = some p ∧ q.h = p.h ∧ (1 ≤ i.operandWords → q.a = p.a) ∧ (2 ≤ i.operandWords → q.b = p.b) ∧
    (3 ≤ i.operandWords → q.c = p.c) ∧ (4 ≤ i.operandWords → q.d = p.d)

/-- Every instruction that a decoding of the words can answer has them as its encoding. -/
def AnswersEncoded (q : Req) (r : Except DecodeError Instr) : Prop := ∀ i, r = .ok i → IsEncoding q i

namespace AnswersEncoded
variable {q : Req}

theorem ok {i : Instr} (h : IsEncoding q i) : AnswersEncoded q (.ok i) := by
  rintro _ ⟨⟩
  exact h

theorem error (e : DecodeError) : AnswersEncoded q (.error e) := by
  rintro _ ⟨⟩

theorem ite {p : Prop} [Decidable p] {a b : Except DecodeError Instr} (ha : p → AnswersEncoded q a)
    (hb : AnswersEncoded q b) : AnswersEncoded q (if p then a else b) := by
  split
  · next h => exact ha h
  · exact hb

theorem clear {b : Bool} {r : Except DecodeError Instr} (h : b = true → AnswersEncoded q r) :
    AnswersEncoded q (decodeClear b r) :=
  .ite h (.error _)

/-- A request without a mode, if its words are its encoding's once the header is. -/
theorem noMode {i : Instr} {op : Byte} (hr : q.reservedBits = 0) (hop : q.op = op)
    (h : q.h = reqHeader op 0 → IsEncoding q i) : AnswersEncoded q (decodeNoMode q i) := by
  refine .ite (fun hm => .ok (h ?_)) (.error _)
  rw [← hop, ← hm]
  exact reqHeader_of_fields hr

/-- A request without operands and without a mode: its encoding is its header. -/
theorem plain {i : Instr} {op : Byte} (hr : q.reservedBits = 0) (he : encodeReq i = some (reqPlain op))
    (hi : i.operandWords = 0) (hop : q.op = op) : AnswersEncoded q (decodeNoMode q i) :=
  .noMode hr hop fun hh => ⟨_, he, hh, by omega, by omega, by omega, by omega⟩

/-- A request whose one operand is a byte. -/
theorem oneByte {i : Instr} {op : Byte} (hr : q.reservedBits = 0)
    (he : encodeReq i = some { reqPlain op with a := (lowByte q.a).zeroExtend 32 }) (hi : i.operandWords = 1)
    (hop : q.op = op) : AnswersEncoded q (decodeClear (highZero8 q.a) (decodeNoMode q i)) :=
  .clear fun ha => .noMode hr hop fun hh =>
    ⟨_, he, hh, fun _ => (zeroExtend_lowByte ha).symm, by omega, by omega, by omega⟩

/-- The header of an opcode whose request has a mode, with the mode it reads. -/
theorem header_ofCode {op : Byte} (hr : q.reservedBits = 0) (hop : q.op = op) :
    q.h = reqHeader op (ColorMode.ofCode q.modeArg).code := by
  rw [code_ofCode, ← hop]
  exact reqHeader_of_fields hr

/-- Operand words whose high halves are 0 are their low halves. -/
theorem halves (h : (highZero16 q.a && highZero16 q.b && highZero16 q.c && highZero16 q.d) = true) :
    q.a = (lowHalf q.a).zeroExtend 32 ∧ q.b = (lowHalf q.b).zeroExtend 32 ∧ q.c = (lowHalf q.c).zeroExtend 32 ∧
      q.d = (lowHalf q.d).zeroExtend 32 := by
  simp only [Bool.and_eq_true] at h
  obtain ⟨⟨⟨ha, hb⟩, hc⟩, hd⟩ := h
  exact ⟨(zeroExtend_lowHalf ha).symm, (zeroExtend_lowHalf hb).symm, (zeroExtend_lowHalf hc).symm,
    (zeroExtend_lowHalf hd).symm⟩

/-- Branch by branch, in the order of the opcode map (R121). -/
theorem decodeOp (hr : q.reservedBits = 0) : AnswersEncoded q (decodeOp q) :=
  .ite (plain hr rfl rfl) <| .ite (plain hr rfl rfl) <| .ite (plain hr rfl rfl) <|
  .ite (fun hop => .clear fun hc => .noMode hr hop fun hh =>
    ⟨_, rfl, hh, fun _ => rfl, fun _ => rfl,
      fun _ => (colourWord_of_fields (of_decide_eq_true hc)).symm, fun hd => absurd hd (by decide : ¬ 4 ≤ 3)⟩) <|
  .ite (plain hr rfl rfl) <|
  .ite (fun hop => .ok ⟨_, rfl, header_ofCode hr hop, nofun, nofun, nofun, nofun⟩) <|
  .ite (plain hr rfl rfl) <|
  .ite (fun hop => .clear fun hw =>
    have ⟨ha, hb, hc, hd⟩ := halves hw
    .ok ⟨_, rfl, header_ofCode hr hop, fun _ => ha, fun _ => hb, fun _ => hc, fun _ => hd⟩) <|
  .ite (plain hr rfl rfl) <| .ite (plain hr rfl rfl) <| .ite (plain hr rfl rfl) <| .ite (plain hr rfl rfl) <|
  .ite (oneByte hr rfl rfl) <| .ite (oneByte hr rfl rfl) <|
  .ite (fun hop => .clear fun hw => .noMode hr hop fun hh =>
    have ⟨ha, hb, hc, hd⟩ := halves hw
    ⟨_, rfl, hh, fun _ => ha, fun _ => hb, fun _ => hc, fun _ => hd⟩) <|
  .error _

theorem decodeReq : AnswersEncoded q (decodeReq q) := .ite decodeOp (.error _)

end AnswersEncoded

/-! The rows of the opcode map whose operand words have reserved bits. -/

section
variable {q : Req}

theorem decodeOp_writePixel (h : q.op = opWritePixel) :
    decodeOp q = decodeClear (highZero24 q.c) (decodeNoMode q
      (.writePixel q.a q.b (q.c.extractLsb' 16 8) (q.c.extractLsb' 8 8) (q.c.extractLsb' 0 8))) := by
  rw [decodeOp, h]
  rfl

theorem decodeOp_flushPartial (h : q.op = opFlushPartial) :
    decodeOp q = decodeClear (highZero16 q.a && highZero16 q.b && highZero16 q.c && highZero16 q.d)
      (.ok (.flushPartial (lowHalf q.a) (lowHalf q.b) (lowHalf q.c) (lowHalf q.d) (.ofCode q.modeArg))) := by
  rw [decodeOp, h]
  rfl

theorem decodeOp_setMadctl (h : q.op = opSetMadctl) :
    decodeOp q = decodeClear (highZero8 q.a) (decodeNoMode q (.setMadctl (lowByte q.a))) := by
  rw [decodeOp, h]
  rfl

theorem decodeOp_setBrightness (h : q.op = opSetBrightness) :
    decodeOp q = decodeClear (highZero8 q.a) (decodeNoMode q (.setBrightness (lowByte q.a))) := by
  rw [decodeOp, h]
  rfl

theorem decodeOp_setWindow (h : q.op = opSetWindow) :
    decodeOp q = decodeClear (highZero16 q.a && highZero16 q.b && highZero16 q.c && highZero16 q.d)
      (decodeNoMode q (.setWindow (lowHalf q.a) (lowHalf q.b) (lowHalf q.c) (lowHalf q.d))) := by
  rw [decodeOp, h]
  rfl

/-- Words with the header of a row without a mode. -/
theorem decodeReq_plain {i : Instr} {op : Byte} (hh : q.h = reqHeader op 0)
    (hop : q.op = op → decodeOp q = decodeNoMode q i) : decodeReq q = .ok i := by
  obtain ⟨hd, ho, hm⟩ := decodeReq_header hh
  rw [hd, hop ho, decodeNoMode, if_pos hm]

theorem decodeReq_oneByte {i : Instr} {op : Byte} {v : Byte} (hh : q.h = reqHeader op 0) (ha : q.a = v.zeroExtend 32)
    (hop : q.op = op → decodeOp q = decodeClear (highZero8 q.a) (decodeNoMode q i)) : decodeReq q = .ok i :=
  decodeReq_plain hh fun ho => by rw [hop ho, ha, highZero8_zeroExtend]; rfl

theorem eq_of_words {p : Req} (hh : q.h = p.h) (ha : q.a = p.a) (hb : q.b = p.b) (hc : q.c = p.c) (hd : q.d = p.d) :
    q = p := by
  cases q
  cases p
  cases hh; cases ha; cases hb; cases hc; cases hd
  rfl

/-- The words of an encoding decode to the instruction, whatever the words hold that it does not use. -/
theorem decodeReq_of_isEncoding {i : Instr} (h : IsEncoding q i) : decodeReq q = .ok i := by
  obtain ⟨p, hp, hh, ha, hb, hc, hd⟩ := h
  cases i with
  | construct | reset | init | getSize | flushFull | sleepIn | sleepOut | displayOn | displayOff =>
    cases hp
    exact decodeReq_plain hh fun ho => by rw [decodeOp, ho]; rfl
  | fbSize m =>
    cases hp
    obtain ⟨hd, ho, hm⟩ := decodeReq_header hh
    rw [hd, decodeOp, ho, hm, ofCode_code]
    rfl
  | writePixel x y r g b =>
    cases hp
    obtain ⟨h24, h16, h8, h0⟩ := colourWord_fields r g b
    refine decodeReq_plain hh fun ho => ?_
    rw [decodeOp_writePixel ho, ha (by decide : 1 ≤ 3), hb (by decide : 2 ≤ 3), hc (by decide : 3 ≤ 3)]
    dsimp only [reqWritePixel]
    rw [h16, h8, h0, highZero24, decide_eq_true h24]
    rfl
  | setMadctl v =>
    cases hp
    have ha := ha (Nat.le_refl 1)
    exact decodeReq_oneByte hh ha fun ho => by rw [decodeOp_setMadctl ho, ha, lowByte_zeroExtend]
  | setBrightness v =>
    cases hp
    have ha := ha (Nat.le_refl 1)
    exact decodeReq_oneByte hh ha fun ho => by rw [decodeOp_setBrightness ho, ha, lowByte_zeroExtend]
  | flushPartial xs xe ys ye m =>
    cases hp
    rw [eq_of_words hh (ha (by decide : 1 ≤ 4)) (hb (by decide : 2 ≤ 4)) (hc (by decide : 3 ≤ 4)) (hd (Nat.le_refl 4))]
    exact decodeReq_flushPartial xs xe ys ye m
  | setWindow xs ys xe ye =>
    cases hp
    rw [eq_of_words hh (ha (by decide : 1 ≤ 4)) (hb (by decide : 2 ≤ 4)) (hc (by decide : 3 ≤ 4)) (hd (Nat.le_refl 4))]
    exact decodeReq_setWindow xs ys xe ye
  | drawIter | fullWindow | slpout | slpin | colmod | teoff | dispon | dispoff | bright | madctl | caset | raset
  | ramwr | ramwrc | mfrEntry => cases hp

end

/-- Settles O17: branch by branch of the decoder one way, row by row of the table the other. -/
theorem decoderAcceptsExactlyTheEncodings : Obligations.DecoderAcceptsExactlyTheEncodings :=
  fun _ i => ⟨AnswersEncoded.decodeReq i, decodeReq_of_isEncoding⟩

/-- The fifteen opcodes of the map (R121). -/
def assignedOps : List Byte :=
  [opConstruct, opReset, opInit, opWritePixel, opGetSize, opFbSize, opFlushFull, opFlushPartial, opSleepIn, opSleepOut,
    opDisplayOn, opDisplayOff, opSetMadctl, opSetBrightness, opSetWindow]

/-- The header of an encoding: an opcode of R121 and, unless the opcode has a mode, the mode 0. -/
theorem encodeReq_header {i : Instr} {p : Req} (h : encodeReq i = some p) :
    ∃ op m, p.h = reqHeader op m ∧ op ∈ assignedOps ∧ (m ≠ 0 → op = opFbSize ∨ op = opFlushPartial) := by
  cases i with
  | fbSize m => cases h; exact ⟨_, _, rfl, by decide, fun _ => .inl rfl⟩
  | flushPartial xs xe ys ye m => cases h; exact ⟨_, _, rfl, by decide, fun _ => .inr rfl⟩
  | construct | reset | init | writePixel | getSize | flushFull | sleepIn | sleepOut | displayOn | displayOff
  | setMadctl | setBrightness | setWindow => cases h; exact ⟨_, _, rfl, by decide, fun hm => absurd rfl hm⟩
  | drawIter | fullWindow | slpout | slpin | colmod | teoff | dispon | dispoff | bright | madctl | caset | raset
  | ramwr | ramwrc | mfrEntry => cases h

/-- The header of words that decode: its reserved bits are 0, its opcode is one of R121, and its mode is 0 unless the
opcode has one. -/
theorem header_of_decodeReq {q : Req} {i : Instr} (h : decodeReq q = .ok i) :
    q.reservedBits = 0 ∧ q.op ∈ assignedOps ∧ (q.modeArg ≠ 0 → q.op = opFbSize ∨ q.op = opFlushPartial) := by
  obtain ⟨p, hp, hh, -⟩ := AnswersEncoded.decodeReq i h
  obtain ⟨op, m, hpm, hop, hm⟩ := encodeReq_header hp
  obtain ⟨-, ho, hma⟩ := decodeReq_header (hh.trans hpm)
  rw [ho, hma, Req.reservedBits, hh, hpm]
  exact ⟨reqHeader_reserved op m, hop, hm⟩

/-- Words that decode to no request are refused. -/
theorem step_refuses {s : State} {q : Req} {rest : List Req} (hb : s.busy = false) (hh : s.env.host = q :: rest)
    (hd : ∀ i, decodeReq q ≠ .ok i) : ∃ e, step s = .refused (.badRequest e) := by
  cases h : decodeReq q with
  | ok i => exact absurd h (hd i)
  | error e => exact ⟨e, step_badRequest hb hh h⟩

/-- Words whose row wants some bits clear decode to no request when they are not. -/
theorem decodeReq_ne_ok_of_unclear {q : Req} {b : Bool} {r : Except DecodeError Instr}
    (hop : decodeOp q = decodeClear b r) (hb : b = false) (i : Instr) : decodeReq q ≠ .ok i := by
  rw [decodeReq, hop, hb]
  split <;> exact nofun

/-- Settles O19: the opcode of words that decode is one of R121. -/
theorem unassignedOpcodesRefused : Obligations.UnassignedOpcodesRefused := by
  intro s q rest hb hh hop
  refine step_refuses hb hh fun i hd => ?_
  obtain ⟨-, hmem, -⟩ := header_of_decodeReq hd
  exact hop hmem

/-- Some high half of the four operand words is not 0. -/
theorem halves_unclear {q : Req} (h : q.a.extractLsb' 16 16 ≠ 0 ∨ q.b.extractLsb' 16 16 ≠ 0 ∨
    q.c.extractLsb' 16 16 ≠ 0 ∨ q.d.extractLsb' 16 16 ≠ 0) :
    (highZero16 q.a && highZero16 q.b && highZero16 q.c && highZero16 q.d) = false := by
  simpa only [highZero16, Bool.and_eq_false_iff, decide_eq_false_iff_not, or_assoc] using h

/-- Words with the header and the used operand words of an encoding are that encoding too. -/
theorem IsEncoding.of_usedWords {p q : Req} {i : Instr} (h : IsEncoding q i) (hh : p.h = q.h)
    (ha : 1 ≤ i.operandWords → p.a = q.a) (hb : 2 ≤ i.operandWords → p.b = q.b) (hc : 3 ≤ i.operandWords → p.c = q.c)
    (hd : 4 ≤ i.operandWords → p.d = q.d) : IsEncoding p i := by
  obtain ⟨e, he, hqh, hqa, hqb, hqc, hqd⟩ := h
  exact ⟨e, he, hh.trans hqh, fun n => (ha n).trans (hqa n), fun n => (hb n).trans (hqb n),
    fun n => (hc n).trans (hqc n), fun n => (hd n).trans (hqd n)⟩

/-- Settles O20: a header that decodes has no such bit, and neither has an operand word of its row. -/
theorem reservedBitsRefused : Obligations.ReservedBitsRefused := by
  intro s q rest hb hh
  refine ⟨fun hr => step_refuses hb hh fun i hd => ?_, fun hm hfb hfl => step_refuses hb hh fun i hd => ?_,
    fun hop hc => ?_, fun hop ha => ?_, fun hop hw => ?_, fun i p hd hph ha hb hc hd' => ?_⟩
  · obtain ⟨hr0, -, -⟩ := header_of_decodeReq hd
    exact hr hr0
  · obtain ⟨-, -, hmode⟩ := header_of_decodeReq hd
    exact (hmode hm).elim hfb hfl
  · exact step_refuses hb hh (decodeReq_ne_ok_of_unclear (decodeOp_writePixel hop) (decide_eq_false hc))
  · rcases hop with hop | hop
    · exact step_refuses hb hh (decodeReq_ne_ok_of_unclear (decodeOp_setMadctl hop) (decide_eq_false ha))
    · exact step_refuses hb hh (decodeReq_ne_ok_of_unclear (decodeOp_setBrightness hop) (decide_eq_false ha))
  · rcases hop with hop | hop
    · exact step_refuses hb hh (decodeReq_ne_ok_of_unclear (decodeOp_flushPartial hop) (halves_unclear hw))
    · exact step_refuses hb hh (decodeReq_ne_ok_of_unclear (decodeOp_setWindow hop) (halves_unclear hw))
  · exact decodeReq_of_isEncoding ((AnswersEncoded.decodeReq i hd).of_usedWords hph ha hb hc hd')

/-- Settles O18, word by word. -/
theorem writtenOutWordsDecode : Obligations.WrittenOutWordsDecode :=
  ⟨by decide, by decide, by decide, by decide, by decide, by decide⟩

/-! ### Requests that `PHASE` excludes (R125), and a window accepted in READY (R110, R240) -/

/-- A request other than CONSTRUCT is refused when the block is not in READY. -/
theorem State.request_notReady {s : State} {op : Byte} (hb : s.busy = false) (hp : s.phase ≠ .ready)
    (hop : op ≠ opConstruct) (o : Out) : s.request op o = .refused (.notAdmitted s.phase) :=
  State.request_notAdmitted hb (Bool.eq_false_iff.2 fun ha => hp ((admitted_other hop _).1 ha)) o

theorem execConstruct_notAdmitted {s : State} (hb : s.busy = false) (hoff : s.phase ≠ .powerOn)
    (hfailed : s.phase ≠ .failed) : execConstruct s = .refused (.notAdmitted s.phase) :=
  State.request_notAdmitted hb
    (Bool.eq_false_iff.2 fun ha => ((admitted_construct _).1 ha).elim hoff hfailed) _

/-- Settles O21: every request but CONSTRUCT is admitted in READY only. -/
theorem phaseAdmission : Obligations.PhaseAdmission := by
  intro s i hb hi
  refine ⟨?_, fun hne hp => ?_⟩
  · rintro rfl
    exact execConstruct_notAdmitted hb
  · cases i with
    | construct => exact absurd rfl hne
    | reset | init | writePixel | getSize | fbSize | flushFull | flushPartial | sleepIn | sleepOut | displayOn
    | displayOff | setMadctl | setBrightness | setWindow => exact State.request_notReady hb hp (by decide) _
    | fullWindow => exact State.request_notReady (s := s.latch _) hb hp (op := opSetWindow) (by decide) _
    | drawIter | slpout | slpin | colmod | teoff | dispon | dispoff | bright | madctl | caset | raset | ramwr | ramwrc
    | mfrEntry =>
      rcases hi with ⟨q, hq⟩ | hi
      · cases hq
      · cases hi

/-- A window accepted in READY: only `BUSY` and the sequencer change. -/
theorem State.setWindow_ready {s : State} (hb : s.busy = false) (hp : s.phase = .ready) (r : Rect) :
    s.setWindow r = .next (s.load opSetWindow (some r) (windowActions s.c r)) :=
  State.request_ready hb hp (by decide) _

/-- Settles O40: SET_WINDOW loads CASET and RASET, and FULL_WINDOW latches its words first. -/
theorem setWindowIsAccepted : Obligations.SetWindowIsAccepted := by
  intro s hb hp accepted
  exact ⟨fun xs ys xe ye => State.setWindow_ready hb hp ⟨xs, ys, xe, ye⟩,
    reqSetWindow 0 0 (s.c.w - 1) (s.c.h - 1), rfl,
    State.setWindow_ready (s := s.latch (reqSetWindow 0 0 (s.c.w - 1) (s.c.h - 1))) hb hp (fullWindow s.c)⟩

end Sys2Proof.Machine

/-! ### The transaction of a row (spec/30_encoding.md R101 to R113) -/

namespace Sys2Proof.Machine

/-- Every row that a decoding of a transaction can answer is well formed. -/
def AnswersWf (c : Cfg) (r : Option Instr) : Prop := ∀ i, r = some i → i.wf c = true

namespace AnswersWf
variable {c : Cfg}

theorem answer {i : Instr} (h : i.wf c = true) : AnswersWf c (some i) := by
  rintro _ ⟨⟩
  exact h

theorem noAnswer : AnswersWf c none := by
  rintro _ ⟨⟩

theorem ite {p : Prop} [Decidable p] {a b : Option Instr} (ha : p → AnswersWf c a) (hb : AnswersWf c b) :
    AnswersWf c (if p then a else b) := by
  split
  · next h => exact ha h
  · exact hb

/-- A test that answers a row, and otherwise goes on. -/
theorem row {p : Prop} [Decidable p] {i : Instr} {r : Option Instr} (hi : i.wf c = true) (hr : AnswersWf c r) :
    AnswersWf c (if p then some i else r) :=
  .ite (fun _ => .answer hi) hr

theorem mfr (cmd : Byte) (data : Bytes) : AnswersWf c (decodeMfr c cmd data) :=
  .ite (fun h => .answer (decide_eq_true h)) .noAnswer

/-- Shape by shape of the data, and test by test. -/
theorem decodeCommand (cmd : Byte) (data : Bytes) : AnswersWf c (decodeCommand c cmd data) := by
  unfold Sys2Proof.decodeCommand
  split
  · exact .row rfl <| .row rfl <| .row rfl <| .row rfl <| .row rfl <| mfr cmd _
  · exact .row rfl <| .row rfl <| .row rfl <| mfr cmd _
  · exact .row rfl <| .row rfl <| mfr cmd _
  · exact mfr cmd _

theorem decodePixels (cmd : Byte) (payload : Bytes) : AnswersWf c (decodePixels c cmd payload) :=
  .ite (fun hl => .row hl <| .row hl .noAnswer) .noAnswer

theorem decodeTxn (x : Txn) : AnswersWf c (decodeTxn c x) :=
  .ite (fun _ => .ite (fun _ => decodeCommand _ _) <| .ite (fun _ => decodePixels _ _) .noAnswer) .noAnswer

end AnswersWf

/-- Settles O26: the row has that transaction, and every row a test answers is well formed. -/
theorem transactionDecodingIsExact : Obligations.TransactionDecodingIsExact :=
  fun _ x i h => ⟨encodeTxn_of_decodeTxn h, AnswersWf.decodeTxn x i h⟩

/-! With distinct command bytes, each test of the decoder passes its own row only. -/

section
variable {c : Cfg}

/-- The tests on the command byte alone, one after the other. -/
theorem decodeCommand_bare_of_distinct (h : c.Distinct) :
    decodeCommand c c.cmdSlpout [] = some .slpout ∧ decodeCommand c c.cmdSlpin [] = some .slpin ∧
      decodeCommand c c.cmdTeoff [] = some .teoff ∧ decodeCommand c c.cmdDispon [] = some .dispon ∧
      decodeCommand c c.cmdDispoff [] = some .dispoff := by
  obtain ⟨hbare, -, -, -, -⟩ := h
  simp only [decodeCommand]
  grind [decodeBare]

theorem decodeCommand_oneByte_of_distinct (h : c.Distinct) (v : Byte) :
    decodeCommand c c.cmdBright [v] = some (.bright v) ∧ decodeCommand c c.cmdMadctl [v] = some (.madctl v) ∧
      decodeCommand c c.cmdColmod [c.pixfmt c.mode] = some .colmod := by
  obtain ⟨-, hbyte, -, -, -⟩ := h
  simp only [decodeCommand]
  grind [decodeOneByte]

theorem decodeCommand_windowPayload (cmd : Byte) (first last : Half) :
    decodeCommand c cmd (windowPayload first last) =
      if cmd = c.cmdCaset then some (.caset first last)
      else if cmd = c.cmdRaset then some (.raset first last)
      else decodeMfr c cmd (windowPayload first last) := by
  show decodeFourBytes c cmd _ _ _ _ = _
  rw [decodeFourBytes, half_bytes, half_bytes]
  rfl

/-- The command byte of an entry of MFR_INIT is no other row's, whatever the length of its data. -/
theorem decodeCommand_entry_of_distinct (h : c.Distinct) {cmd : Byte} {data : Bytes} (he : (cmd, data) ∈ c.mfrInit) :
    decodeCommand c cmd data = some (.mfrEntry cmd data) := by
  obtain ⟨-, -, -, -, hmfr⟩ := h
  have hcmd := hmfr _ he
  simp only [List.mem_cons, List.not_mem_nil, or_false, not_or] at hcmd
  unfold decodeCommand
  split
  · simp [decodeBare, decodeMfr, hcmd, he]
  · simp [decodeOneByte, decodeMfr, hcmd, he]
  · simp [decodeFourBytes, decodeMfr, hcmd, he]
  · exact if_pos he

end

/-- Settles O27, row by row. -/
theorem transactionRoundTrip : Obligations.TransactionRoundTrip := by
  intro c x i h hi hx
  obtain ⟨hslpout, hslpin, hteoff, hdispon, hdispoff⟩ := decodeCommand_bare_of_distinct h
  have command {cmd : Byte} {data : Bytes} (hd : decodeCommand c cmd data = some i)
      (hx : some (txnCommand c cmd data) = some x) : decodeTxn c x = some i := by
    cases hx
    exact (decodeTxn_command c cmd data).trans hd
  cases i with
  | slpout => exact command hslpout hx
  | slpin => exact command hslpin hx
  | teoff => exact command hteoff hx
  | dispon => exact command hdispon hx
  | dispoff => exact command hdispoff hx
  | bright v =>
    obtain ⟨hbright, -, -⟩ := decodeCommand_oneByte_of_distinct h v
    exact command hbright hx
  | madctl v =>
    obtain ⟨-, hmadctl, -⟩ := decodeCommand_oneByte_of_distinct h v
    exact command hmadctl hx
  | colmod =>
    obtain ⟨-, -, hcolmod⟩ := decodeCommand_oneByte_of_distinct h 0
    exact command hcolmod hx
  | caset first last => exact command ((decodeCommand_windowPayload _ _ _).trans (if_pos rfl)) hx
  | raset first last =>
    obtain ⟨-, -, hne, -, -⟩ := h
    exact command ((decodeCommand_windowPayload _ _ _).trans ((if_neg hne.symm).trans (if_pos rfl))) hx
  | mfrEntry cmd data => exact command (decodeCommand_entry_of_distinct h (of_decide_eq_true hi)) hx
  | ramwr payload =>
    cases hx
    rw [decodeTxn_pixels]
    exact (if_pos hi).trans (if_pos rfl)
  | ramwrc payload =>
    cases hx
    obtain ⟨-, -, -, hne, -⟩ := h
    rw [decodeTxn_pixels]
    exact (if_pos hi).trans ((if_neg hne.symm).trans (if_pos rfl))
  | construct | reset | init | writePixel | getSize | fbSize | flushFull | flushPartial | sleepIn | sleepOut | displayOn
  | displayOff | setMadctl | setBrightness | setWindow | drawIter | fullWindow => cases hx

/-! ### What the block emits (R101 to R104, R113) -/

/-- The transaction of a row is a command, or a chunk of a burst with the command byte of one. -/
theorem encodeTxn_form {c : Cfg} {i : Instr} {x : Txn} (hw : i.wf c = true) (hx : encodeTxn c i = some x) :
    (∃ cmd data, x = txnCommand c cmd data) ∨
      ∃ cmd chunk, x = txnPixels c cmd chunk ∧ (cmd = c.cmdRamwr ∨ cmd = c.cmdRamwrc) ∧
        chunkLengthOk c chunk = true := by
  cases i with
  | ramwr chunk => cases hx; exact .inr ⟨_, chunk, rfl, .inl rfl, hw⟩
  | ramwrc chunk => cases hx; exact .inr ⟨_, chunk, rfl, .inr rfl, hw⟩
  | slpout | slpin | colmod | teoff | dispon | dispoff | bright | madctl | caset | raset | mfrEntry =>
    cases hx
    exact .inl ⟨_, _, rfl⟩
  | construct | reset | init | writePixel | getSize | fbSize | flushFull | flushPartial | sleepIn | sleepOut | displayOn
  | displayOff | setMadctl | setBrightness | setWindow | drawIter | fullWindow => cases hx

/-- A transaction that a step puts into the trace was the current action (R47). -/
theorem current_of_trace {s t : State} {x : Txn} {r : Resp TErr} (hs : step s = .next t)
    (ht : t.trace = s.trace ++ [.tx x r]) : s.current = some (.tx x) := by
  have htrace := traceGetsOneEntryPerExternalAction s t hs
  rw [ht] at htrace
  cases hc : s.current with
  | none => simp [hc] at htrace
  | some a =>
    cases a with
    | tx y => simp_all
    | rst l | dly ms | fbw off v => simp [hc] at htrace

/-- The current transaction of a request in progress is a row of the table. -/
theorem State.Inv.row_of_current {s : State} {x : Txn} (h : s.Inv) (hc : s.current = some (.tx x)) :
    ∃ i, decodeTxn s.c x = some i := by
  obtain ⟨a, ha, hrow⟩ := h.exists_current (State.current_some hc).1
  cases hc.symm.trans ha
  exact Option.isSome_iff_exists.1 hrow

/-- Settles O12: what the step emits is the transaction of a well-formed row. -/
theorem reservedTransactionPatternsNeverEmitted : Obligations.ReservedTransactionPatternsNeverEmitted := by
  intro s t x r h hs ht
  obtain ⟨i, hd⟩ := h.row_of_current (current_of_trace hs ht)
  obtain ⟨hx, hw⟩ := transactionDecodingIsExact s.c x i hd
  rcases encodeTxn_form hw hx with ⟨cmd, data, rfl⟩ | ⟨cmd, chunk, rfl, hcmd, hlen⟩
  · exact ⟨txnAddr_high cmd, txnAddr_low cmd, rfl, fun _ => rfl, nofun, fun hne => ⟨fun ho => hne ho.1, nofun⟩, nofun⟩
  · simp only [chunkLengthOk, Bool.and_eq_true, decide_eq_true_eq] at hlen
    obtain ⟨hmin, hmax⟩ := hlen
    rw [← txnAddr_cmd cmd] at hcmd
    exact ⟨txnAddr_high cmd, txnAddr_low cmd, rfl, nofun, fun _ => rfl, fun hne => ⟨nofun, fun ho => hne ho.1.symm⟩,
      fun _ => ⟨hmin, hmax, hcmd⟩⟩

/-- The row of the current transaction performs it. -/
theorem exec_performs {s : State} {i : Instr} {x : Txn} (hx : encodeTxn s.c i = some x)
    (hc : s.current = some (.tx x)) : exec i s = .next (s.performTx x) := by
  rw [exec_of_encodeTxn hx, State.emit_current hc]

/-- The fields of a command, written out (R101 to R104). -/
theorem txnCommand_fields (c : Cfg) (cmd : Byte) (data : Bytes) :
    txnCommand c cmd data = ⟨.single, c.ctrlOpcode, (0 : Byte) ++ cmd ++ (0 : Byte), 0, data⟩ := by
  rw [txnCommand, txnAddr_bytes]

/-- The fields of a chunk of a burst, written out (R101 to R104). -/
theorem txnPixels_fields (c : Cfg) (cmd : Byte) (chunk : Bytes) :
    txnPixels c cmd chunk = ⟨.quad, c.pixelOpcode, (0 : Byte) ++ cmd ++ (0 : Byte), 0, chunk⟩ := by
  rw [txnPixels, txnAddr_bytes]

/-- Settles O28: each row performs its encoding, whose fields are those of R101 to R104. -/
theorem rowsEmitTheirTransactions : Obligations.RowsEmitTheirTransactions := by
  intro s cmdTxn pixTxn emits
  have command {i : Instr} {cmd : Byte} {data : Bytes} (hx : encodeTxn s.c i = some (txnCommand s.c cmd data)) :
      emits i (cmdTxn cmd data) := exec_performs (hx.trans (congrArg some (txnCommand_fields s.c cmd data)))
  have pixels {i : Instr} {cmd : Byte} {chunk : Bytes} (hx : encodeTxn s.c i = some (txnPixels s.c cmd chunk)) :
      emits i (pixTxn cmd chunk) := exec_performs (hx.trans (congrArg some (txnPixels_fields s.c cmd chunk)))
  exact ⟨command rfl, command rfl, command rfl, command rfl, command rfl, command rfl,
    fun v => ⟨command rfl, command rfl⟩, fun a b => ⟨command rfl, command rfl⟩, fun p => ⟨pixels rfl, pixels rfl⟩,
    fun cmd data => command rfl⟩

end Sys2Proof.Machine

/-! ### DRAW_ITER is its WRITE_PIXELs (spec/30_encoding.md R128, spec/41_framebuffer.md R184) -/

namespace Sys2Proof.Machine

/-- The state with other requests to come from the host. -/
def State.withHost (s : State) (l : List Req) : State := { s with env := { s.env with host := l } }

/-- The outcome whose next state, if it is one, has other requests to come from the host. -/
def outWithHost (l : List Req) : Out → Out
  | .next t => .next (t.withHost l)
  | .fault f => .fault f
  | .refused r => .refused r

theorem State.latch_withHost (s : State) (l : List Req) (q : Req) :
    (s.withHost l).latch q = (s.latch q).withHost l := rfl

theorem State.endAction_withHost (s : State) (l : List Req) : (s.withHost l).endAction = s.endAction.withHost l := by
  rcases Nat.lt_or_ge (s.seq.k + 1) s.seq.list.length with hk | hk
  · rw [State.endAction_more hk, State.endAction_more (s := s.withHost l) hk]
    rfl
  · rw [State.endAction_last hk, State.endAction_last (s := s.withHost l) hk]
    rfl

theorem State.performFbw_withHost (s : State) (l : List Req) (off : Nat) (v : Bytes) :
    (s.withHost l).performFbw off v = outWithHost l (s.performFbw off v) := by
  cases hf : s.fb with
  | none => rw [State.performFbw_absent hf, State.performFbw_absent (s := s.withHost l) hf]; rfl
  | some m =>
    by_cases hl : off + v.length ≤ s.c.fblen
    · rw [State.performFbw_inside hf hl, State.performFbw_inside (s := s.withHost l) hf hl]
      exact congrArg Host.Outcome.next
        (State.endAction_withHost (s.acted s.trace s.env (some (Memory.writeBytes m off v))) l)
    · rw [State.performFbw_outside hf hl, State.performFbw_outside (s := s.withHost l) hf hl]
      rfl

theorem State.request_withHost (s : State) (l : List Req) (op : Byte) (o : Out) :
    (s.withHost l).request op (outWithHost l o) = outWithHost l (s.request op o) := by
  cases hb : s.busy with
  | true => rw [State.request_busy hb, State.request_busy (s := s.withHost l) hb]; rfl
  | false =>
    cases ha : admitted op s.phase with
    | true => rw [State.request_accepted hb ha, State.request_accepted (s := s.withHost l) hb ha]
    | false => rw [State.request_notAdmitted hb ha, State.request_notAdmitted (s := s.withHost l) hb ha]; rfl

/-- A pixel write neither reads nor changes the requests that are to come. -/
theorem State.writePixel_withHost (s : State) (l : List Req) (x y : Word) (r g b : Byte) :
    (s.withHost l).writePixel x y r g b = outWithHost l (s.writePixel x y r g b) := by
  cases hw : pixelWrite s.c x y r g b with
  | none =>
    rw [State.writePixel_clipped hw, State.writePixel_clipped (s := s.withHost l) hw]
    exact State.request_withHost s l opWritePixel (.next (s.answer opWritePixel 0 0))
  | some w =>
    rw [State.writePixel_inside hw, State.writePixel_inside (s := s.withHost l) hw, ← State.request_withHost,
      ← State.performFbw_withHost]
    rfl

/-- A pixel write completes in the step that accepts it. -/
theorem State.writePixel_idle {s t : State} {x y : Word} {r g b : Byte} (h : s.writePixel x y r g b = .next t) :
    t.busy = false := by
  cases hw : pixelWrite s.c x y r g b with
  | none =>
    rw [State.writePixel_clipped hw] at h
    obtain ⟨-, -, ho⟩ := State.request_next h
    cases ho
    rfl
  | some w =>
    rw [State.writePixel_inside hw] at h
    obtain ⟨hb, -, ho⟩ := State.request_next h
    obtain ⟨m, -, -, rfl⟩ := State.performFbw_next ho
    rw [State.endAction_last (Nat.le_refl _)]
    rfl

/-- One step with the words of a WRITE_PIXEL at the head of the host's requests. -/
theorem step_writePixel {s : State} (hb : s.busy = false) (x y : Word) (r g b : Byte) (l : List Req) :
    step (s.withHost (reqWritePixel x y r g b :: l)) =
      outWithHost l ((s.latch (reqWritePixel x y r g b)).writePixel x y r g b) := by
  rw [← State.writePixel_withHost]
  exact stepRunsTheNextRequest (s.withHost (_ :: l)) _ l _ hb rfl (decodeReq_writePixel x y r g b)

theorem run_of_fault {M : Host.Core} {s : M.State} {f : M.Fault} (h : M.step s = .fault f) (n : Nat) :
    M.run (n + 1) s = .fault f := by
  rw [Host.Core.run, h]

theorem run_of_refused {M : Host.Core} {s : M.State} {r : M.Refusal} (h : M.step s = .refused r) (n : Nat) :
    M.run (n + 1) s = .refused r := by
  rw [Host.Core.run, h]

/-- Settles O48, by induction on the pixels: the first step writes the first pixel, and leaves the others' requests. -/
theorem drawIterIsItsWritePixels : Obligations.DrawIterIsItsWritePixels := by
  intro s pixels rest
  induction pixels generalizing s with
  | nil => exact fun _ => rfl
  | cons p pixels ih =>
    intro hb
    have hstep := step_writePixel hb p.x p.y p.r p.g p.b
      (pixels.map (fun p => reqWritePixel p.x p.y p.r p.g p.b) ++ rest)
    show _ = execDrawIter (p :: pixels) (s.withHost rest)
    rw [execDrawIter, State.latch_withHost, State.writePixel_withHost]
    cases ho : (s.latch (reqWritePixel p.x p.y p.r p.g p.b)).writePixel p.x p.y p.r p.g p.b with
    | next t =>
      rw [ho] at hstep
      exact (run_of_step (M := core) hstep pixels.length).trans (ih t (State.writePixel_idle ho))
    | fault f =>
      rw [ho] at hstep
      exact run_of_fault (M := core) hstep pixels.length
    | refused r =>
      rw [ho] at hstep
      exact run_of_refused (M := core) hstep pixels.length

end Sys2Proof.Machine

/-! ### A request in progress always goes on (spec/40_protocol.md R165, R167) -/

namespace Sys2Proof.Machine

/-- Settles O6, by the current action: the invariant allows a row's transaction, a level of the reset line or a delay,
and each answers a next state. -/
theorem busyStepAlwaysGoesOn : Obligations.BusyStepAlwaysGoesOn := by
  intro s h hb
  obtain ⟨a, hc, hallowed⟩ := h.exists_current hb
  cases a with
  | tx x =>
    obtain ⟨i, hd⟩ := h.row_of_current hc
    exact ⟨_, step_tx hc hd⟩
  | rst l => exact ⟨_, step_rst hc⟩
  | dly ms => exact ⟨_, step_dly hc⟩
  | fbw off v => exact hallowed.elim

/-! ### An action answered `Ok`, and one answered `Err` (R141, R160, R163) -/

section
variable {s : State}

/-- The last action completes the request with OK. -/
theorem State.endAction_ends (hk : s.seq.list.length ≤ s.seq.k + 1) :
    s.endAction.busy = false ∧ s.endAction.res = ⟨.ok, .none, 0, 0⟩ := by
  rw [State.endAction_last hk]
  exact ⟨rfl, rfl⟩

variable {tr : List Event} {e : Env}

/-- An action that is not the last leaves the request in progress. -/
theorem State.acted_goesOn (hb : s.busy = true) (hk : s.seq.k + 1 < s.seq.list.length) :
    (s.acted tr e s.fb).endAction.busy = true ∧ (s.acted tr e s.fb).endAction.res = s.res ∧
      (s.acted tr e s.fb).endAction.gwin = s.gwin := by
  rw [State.endAction_more (s := s.acted tr e s.fb) hk]
  exact ⟨hb, rfl, rfl⟩

/-- An action answered `Ok` that completes the request completes it with OK. -/
theorem State.acted_status_of_idle (hb : s.busy = true) (hidle : (s.acted tr e s.fb).endAction.busy = false) :
    (s.acted tr e s.fb).endAction.res.status = .ok := by
  rcases Nat.lt_or_ge (s.seq.k + 1) s.seq.list.length with hk | hk
  · obtain ⟨hbusy, -, -⟩ := State.acted_goesOn (tr := tr) (e := e) hb hk
    cases hbusy.symm.trans hidle
  · rw [(State.endAction_ends (s := s.acted tr e s.fb) hk).2]

variable {o : Completion}

/-- An error during a construction fails it, and its framebuffer is lost (R210). -/
theorem State.finish_err_construction (ho : o.isOk = false) (hin : inConstruction s.phase = true) :
    ((s.acted tr e s.fb).finish o).phase = .failed ∧ ((s.acted tr e s.fb).finish o).fb = none := by
  simp [phaseAfter, hin, ho]

/-- Outside a construction, an action that completes the request leaves `PHASE` and the framebuffer (R300). -/
theorem State.finish_noConstruction (hin : inConstruction s.phase = false) :
    ((s.acted tr e s.fb).finish o).phase = s.phase ∧ ((s.acted tr e s.fb).finish o).fb = s.fb := by
  refine ⟨?_, by simp [hin]⟩
  rw [State.finish_phase, State.acted_phase]
  cases hp : s.phase with
  | powerOn | ready | failed => simp [phaseAfter, phaseAtAction, inConstruction]
  | constructing | reset | initializing => rw [hp] at hin; cases hin

end

/-- Settles O29: the row performs its transaction, and the response says how the action ends. -/
theorem transactionIsPerformed : Obligations.TransactionIsPerformed := by
  intro s i x hx hc
  obtain ⟨hb, -⟩ := State.current_some hc
  refine ⟨s.performTx x, exec_performs hx hc, s.performTx_cfg x, ?_⟩
  cases hr : s.txResponse with
  | ok =>
    rw [State.performTx_ok x hr]
    have hends (hk : s.seq.list.length ≤ s.seq.k + 1) :=
      State.endAction_ends (s := s.acted (s.trace ++ [.tx x .ok]) s.env.afterTx s.fb) hk
    simpa [State.acted] using ⟨State.acted_goesOn hb, hends⟩
  | err e =>
    rw [State.performTx_err x hr]
    refine ⟨rfl, rfl, rfl, rfl, Env.afterTx_host _, Env.afterTx_rstAnswers _, rfl, nofun, ?_⟩
    rintro _ ⟨⟩
    exact ⟨rfl, rfl, rfl, rfl, State.finish_err_construction rfl, State.finish_noConstruction⟩

/-- Settles O31: the step drives the level, and the response says how the action ends. -/
theorem resetLineIsDriven : Obligations.ResetLineIsDriven := by
  intro s l hc
  obtain ⟨hb, -⟩ := State.current_some hc
  refine ⟨s.performRst l, step_rst hc, s.performRst_cfg l, ?_⟩
  cases hr : s.rstResponse with
  | ok =>
    rw [State.performRst_ok l hr]
    have hgoesOn (hk : s.seq.k + 1 < s.seq.list.length) :=
      State.acted_goesOn (tr := s.trace ++ [.rst l .ok]) (e := s.env.afterRst) hb hk
    have hends (hk : s.seq.list.length ≤ s.seq.k + 1) :=
      State.endAction_ends (s := s.acted (s.trace ++ [.rst l .ok]) s.env.afterRst s.fb) hk
    simpa [State.acted] using ⟨fun hk => ⟨(hgoesOn hk).1, (hgoesOn hk).2.1⟩, hends⟩
  | err e =>
    rw [State.performRst_err l hr]
    refine ⟨rfl, Env.afterRst_host _, Env.afterRst_txAnswers _, rfl, nofun, ?_⟩
    rintro _ ⟨⟩
    exact ⟨rfl, rfl, rfl, State.finish_err_construction rfl, State.finish_noConstruction⟩

/-- Settles O32: the step performs the delay, which has no response to wait for. -/
theorem delayAlwaysCompletes : Obligations.DelayAlwaysCompletes := by
  intro s ms hc
  obtain ⟨hb, -⟩ := State.current_some hc
  exact ⟨s.performDly ms, step_dly hc, s.performDly_trace ms, State.endAction_env _, s.performDly_cfg ms,
    State.endAction_req _, State.endAction_fb _, State.endAction_seq _, State.acted_goesOn hb,
    fun hk => State.endAction_ends hk⟩

/-! ### Where a ResetError comes from (R161) -/

/-- If the outcome is a next state whose result is a ResetError, that result is `r`. -/
def NoNewResetError (r : Res) (o : Out) : Prop := ∀ t, o = .next t → t.res.status = .resetError → t.res = r

namespace NoNewResetError
variable {s : State} {op : Byte}

theorem next {r : Res} {t : State} (h : t.res = r ∨ t.res.status ≠ .resetError) : NoNewResetError r (.next t) := by
  rintro _ ⟨⟩ hres
  exact h.resolve_right fun hne => hne hres

theorem fault (r : Res) (f : Fault) : NoNewResetError r (.fault f) := by
  rintro _ ⟨⟩

theorem request {r : Res} {o : Out} (h : NoNewResetError r o) : NoNewResetError r (s.request op o) := by
  intro t ht
  obtain ⟨-, -, ho⟩ := State.request_next ht
  exact h t ho

/-- A request that sends actions leaves `RES`. -/
theorem load {w : Option Rect} {list : List Action} : NoNewResetError s.res (s.request op (.next (s.load op w list))) :=
  .request (.next (.inl rfl))

/-- A request that performs no action completes with OK. -/
theorem answer {v0 v1 : Word} : NoNewResetError s.res (s.request op (.next (s.answer op v0 v1))) :=
  .request (.next (.inr nofun))

theorem writePixel (s : State) (x y : Word) (r g b : Byte) : NoNewResetError s.res (s.writePixel x y r g b) := by
  cases hw : pixelWrite s.c x y r g b with
  | none => rw [State.writePixel_clipped hw]; exact answer
  | some w =>
    rw [State.writePixel_inside hw]
    refine .request fun t ht => ?_
    obtain ⟨m, -, -, rfl⟩ := State.performFbw_next ht
    rw [(State.endAction_ends (Nat.le_refl _)).2]
    exact nofun

theorem flushFull (s : State) : NoNewResetError s.res (execFlushFull s) := by
  cases hf : s.fb with
  | none => rw [execFlushFull_absent hf]; exact .request (.fault _ _)
  | some m => rw [execFlushFull_present hf]; exact load

theorem flushPartial (xs xe ys ye : Half) (mode : ColorMode) (s : State) :
    NoNewResetError s.res (execFlushPartial xs xe ys ye mode s) := by
  cases hf : s.fb with
  | none => rw [execFlushPartial_absent hf]; exact .request (.fault _ _)
  | some m =>
    cases hl : partialFlush s.c m ⟨xs, ys, xe, ye⟩ mode with
    | some list => rw [execFlushPartial_loads hf hl]; exact load
    | none => rw [execFlushPartial_rejects hf hl]; exact .request (.next (.inr nofun))

/-- No request completes with a ResetError in the step that accepts it. -/
theorem exec {i : Instr} (hi : (encodeReq i).isSome = true) (s : State) : NoNewResetError s.res (exec i s) := by
  cases i with
  | construct => exact .request (.next (.inl rfl))
  | reset | init | sleepIn | sleepOut | displayOn | displayOff | setMadctl | setBrightness | setWindow => exact load
  | getSize | fbSize => exact answer
  | writePixel x y r g b => exact writePixel s x y r g b
  | flushFull => exact flushFull s
  | flushPartial xs xe ys ye mode => exact flushPartial xs xe ys ye mode s
  | drawIter | fullWindow | slpout | slpin | colmod | teoff | dispon | dispoff | bright | madctl | caset | raset
  | ramwr | ramwrc | mfrEntry => cases hi

/-- With no request in progress, a step waits or accepts a request. -/
theorem step_idle (hb : s.busy = false) : NoNewResetError s.res (step s) := by
  intro t hs
  cases stepNext_of_idle hb hs with
  | waits _ _ ht => exact fun _ => ht ▸ rfl
  | accepts q rest i _ _ hd ht => exact exec (AnswersRequest.decodeReq q i hd) (s.take q rest) t ht
  | transmits _ _ hc | drivesReset _ hc | delays _ hc | writes _ _ hc => cases (State.current_idle hb).symm.trans hc
  | completes hb' => cases hb.symm.trans hb'

end NoNewResetError

/-- A transaction never completes its request with a ResetError. -/
theorem State.performTx_noResetError {s : State} {x : Txn} (hb : s.busy = true)
    (hidle : (s.performTx x).busy = false) : (s.performTx x).res.status ≠ .resetError := by
  cases hr : s.txResponse with
  | ok =>
    rw [State.performTx_ok x hr] at hidle ⊢
    exact fun hres => nomatch (State.acted_status_of_idle hb hidle).symm.trans hres
  | err e =>
    rw [State.performTx_err x hr]
    exact nofun

/-- A level of the reset line that completes its request with a ResetError was answered `Err`. -/
theorem State.performRst_resetError {s : State} {l : Level} (hb : s.busy = true)
    (hidle : (s.performRst l).busy = false) (hres : (s.performRst l).res.status = .resetError) :
    ∃ e, s.rstResponse = .err e ∧ (s.performRst l).res = ⟨.resetError, .resetLine e, 0, 0⟩ := by
  cases hr : s.rstResponse with
  | ok =>
    rw [State.performRst_ok l hr] at hidle hres
    cases (State.acted_status_of_idle hb hidle).symm.trans hres
  | err e => exact ⟨e, rfl, by rw [State.performRst_err l hr]; rfl⟩

/-- Settles O15: the current action of a request is one that its opcode allows, and of these only a level of the reset
line answers with a ResetError. -/
theorem resetErrorOnlyFromConstructAndReset : Obligations.ResetErrorOnlyFromConstructAndReset := by
  intro s t h hs
  have hop (l : Level) (hc : s.current = some (.rst l)) : s.seq.op = some opConstruct ∨ s.seq.op = some opReset := by
    obtain ⟨a, ha, hallowed⟩ := h.exists_current (State.current_some hc).1
    cases ha.symm.trans hc
    exact hallowed
  refine ⟨hop, fun hb hidle hres => ?_, fun hb => NoNewResetError.step_idle hb t hs⟩
  cases stepNext_of_busy hb hs with
  | waits hb' | accepts _ _ _ hb' => cases hb.symm.trans hb'
  | transmits x i _ hd ht =>
    cases performTx_of_exec hd ht
    exact absurd hres (State.performTx_noResetError hb hidle)
  | drivesReset l hc ht =>
    subst ht
    obtain ⟨e, hr, hres⟩ := State.performRst_resetError hb hidle hres
    exact ⟨hop l hc, l, e, hc, hr, hres⟩
  | delays ms _ ht =>
    subst ht
    cases (State.acted_status_of_idle hb hidle).symm.trans hres
  | writes off v hc => exact absurd ⟨off, v, hc⟩ h.not_at_fbw
  | completes _ _ ht => subst ht; cases hres

/-! ### The first action answered `Err` (R155, R162, R213) -/

/-- The request of `s` has ended in `t` with the completion `o`, its actions `done` answered `Ok` and the one behind
them failing with the entry `ev`; a CONSTRUCT has lost its driver, any other request has left it. -/
structure State.Stopped (s : State) (done : List Action) (ev : Event) (o : Completion) (t : State) : Prop where
  busy : t.busy = false
  res : t.res = o.res
  trace : t.trace = s.trace ++ done.filterMap okEvent ++ [ev]
  gwin : t.gwin = .unknown
  construct : s.seq.op = some opConstruct → t.phase = .failed ∧ t.fb = none
  other : s.seq.op ≠ some opConstruct → t.phase = .ready ∧ t.fb = s.fb

/-- A construction is in progress exactly when the request is a CONSTRUCT; during any other `PHASE` is READY. -/
theorem State.Inv.phase_of_op {s : State} (h : s.Inv) (hb : s.busy = true) :
    (s.seq.op = some opConstruct → inConstruction s.phase = true) ∧
    (s.seq.op ≠ some opConstruct → s.phase = .ready) := by
  obtain ⟨-, -, -, -, hp, -⟩ := h
  rcases hp hb with ⟨hop, -, hphase⟩ | ⟨hop, hphase⟩
  · exact ⟨fun _ => hphase ▸ inConstruction_constructPhase _, fun hne => absurd hop hne⟩
  · exact ⟨fun heq => absurd heq hop, fun _ => hphase⟩

theorem gwinAfter_of_isAnswerErr {o : Completion} (ho : o.IsAnswerErr) (op : Option Byte) (w : Option Rect) (g : Gwin) :
    gwinAfter op w g o = .unknown := by
  rcases ho with ⟨e, rfl⟩ | ⟨e, rfl⟩ <;> rfl

/-- The state in which an action fails behind `done` is one in which the request has stopped. -/
theorem State.Performed.stopped {s u : State} {done : List Action} {e : Env} {o : Completion}
    (hu : s.Performed done e u) (ho : o.IsAnswerErr) (ev : Event) (e' : Env) :
    s.Stopped done ev o ((u.acted (u.trace ++ [ev]) e' u.fb).finish o) := by
  obtain ⟨hconstruct, hother⟩ := hu.inv.phase_of_op hu.busy
  have hop : u.seq.op = s.seq.op := by rw [hu.seq]
  rw [hop] at hconstruct hother
  refine ⟨rfl, rfl, by simp [hu.trace], gwinAfter_of_isAnswerErr ho _ _ _, fun heq => ?_, fun hne => ?_⟩
  · exact State.finish_err_construction ho.isOk (hconstruct heq)
  · have hready := hother hne
    obtain ⟨hphase, hfb⟩ :=
      State.finish_noConstruction (s := u) (tr := u.trace ++ [ev]) (e := e') (o := o) (by rw [hready]; rfl)
    exact ⟨hphase.trans hready, hfb.trans hu.fb⟩

/-- The actions before one that is answered `Err` are performed, and the run stops there. -/
theorem State.Inv.run_stops {s : State} {done todo : List Action} {a : Action} {ev : Event} {o : Completion}
    {e e' : Env} (h : s.Inv) (hb : s.busy = true) (hl : s.seq.list.drop s.seq.k = done ++ a :: todo)
    (he : s.env = okThen (txCount done) (rstCount done) e) (ho : o.IsAnswerErr)
    (herr : ∀ u : State, u.Inv → u.current = some a → u.env = e →
      step u = .next ((u.acted (u.trace ++ [ev]) e' u.fb).finish o)) :
    ∃ t, Host.Core.run core (done.length + 1) s = .next t ∧ s.Stopped done ev o t ∧ t.env = e' := by
  obtain ⟨u, hu, hrun⟩ := h.run_performs hb hl (List.cons_ne_nil _ _) he
  have hdrop : u.seq.list.drop u.seq.k = a :: todo := by
    rw [hu.seq, ← List.drop_drop, hl, List.drop_left]
  obtain ⟨hc, -⟩ := hu.inv.current_of_drop hu.busy hdrop
  exact ⟨_, (hrun 1).trans (run_of_step (M := core) (herr u hu.inv hc hu.env) 0), hu.stopped ho ev e', rfl⟩

/-- Settles O34: the failing action is a row's transaction. -/
theorem requestStopsAtTheFirstError : Obligations.RequestStopsAtTheFirstError := by
  intro s pre post x err later e h hb hl he
  obtain ⟨t, hrun, ht, henv⟩ := h.run_stops (ev := .tx x (.err err)) (e' := { e with txAnswers := later })
    hb hl he (.inl ⟨err, rfl⟩) fun u hinv hc hu => by
      obtain ⟨i, hd⟩ := hinv.row_of_current hc
      rw [step_tx hc hd, State.performTx_err (e := err) x (by rw [State.txResponse, hu]), Env.afterTx, hu]
      rfl
  exact ⟨t, hrun, ht.busy, ht.res, ht.trace, ht.gwin, ht.construct, ht.other, henv⟩

/-- Settles O35: the failing action is a level of the reset line. -/
theorem requestStopsAtTheFirstResetError : Obligations.RequestStopsAtTheFirstResetError := by
  intro s pre post l err later e h hb hl he
  obtain ⟨t, hrun, ht, henv⟩ := h.run_stops (ev := .rst l (.err err)) (e' := { e with rstAnswers := later })
    hb hl he (.inr ⟨err, rfl⟩) fun u _ hc hu => by
      rw [step_rst hc, State.performRst_err (e := err) l (by rw [State.rstResponse, hu]), Env.afterRst, hu]
      rfl
  exact ⟨t, hrun, ht.busy, ht.res, ht.trace, ht.gwin, ht.construct, ht.other, henv⟩

/-! ### How a burst is split (R150 to R153) -/

/-- The window of a flush holds no pixel. -/
theorem pixelPayloads_flushActions (c : Cfg) (r : Rect) (p : Bytes) :
    pixelPayloads (flushActions c r p) = pixelPayloads (sendPixels c p) := rfl

theorem sendPixels_length (c : Cfg) (p : Bytes) : (sendPixels c p).length = ceilDiv p.length c.maxChunk := by
  simp [sendPixels]

theorem sendPixels_getElem? {c : Cfg} {p : Bytes} {i : Nat} (hi : i < ceilDiv p.length c.maxChunk) :
    (sendPixels c p)[i]? = some (.tx (txnPixels c (chunkCmd c i) (chunkAt c.maxChunk p i))) := by
  simp [sendPixels, hi]

/-- A chunk that is not the last is full: the bytes reach beyond it. -/
theorem chunkAt_length_full {size : Nat} {p : Bytes} {i : Nat} (hs : 1 ≤ size) (hi : i + 1 < ceilDiv p.length size) :
    (chunkAt size p i).length = size := by
  have hreach := (Nat.le_div_iff_mul_le hs).1 (show i + 2 ≤ (p.length + size - 1) / size from hi)
  rw [Nat.add_mul] at hreach
  simp only [chunkAt, List.length_take, List.length_drop]
  omega

/-- The last chunk holds what the full ones leave. -/
theorem chunkAt_length_last {size : Nat} {p : Bytes} {i : Nat} (hs : 1 ≤ size) (hi : i + 1 = ceilDiv p.length size) :
    (chunkAt size p i).length = p.length - i * size := by
  have hcover := le_ceilDiv_mul p.length hs
  rw [← hi, Nat.succ_mul] at hcover
  simp only [chunkAt, List.length_take, List.length_drop]
  omega

/-- Settles O50, chunk by chunk: each but the last is full, and together they cover the payload. -/
theorem burstIsSplitGreedily : Obligations.BurstIsSplitGreedily := by
  intro c p hc
  constructor
  · rintro rfl
    rw [← List.length_eq_zero_iff, sendPixels_length]
    exact Nat.div_eq_of_lt (by simp; omega)
  intro hp n
  refine ⟨sendPixels_length c p, ?_, ?_, fun i hi => ?_⟩
  · exact (Nat.le_div_iff_mul_le hc).2 (by omega)
  · rw [← pixelPayloads_flushActions c (fullWindow c), flatten_pixelPayloads_flushActions hc]
  · refine ⟨chunkAt c.maxChunk p i, sendPixels_getElem? hi, ?_, chunkAt_length hc hi⟩
    split
    · next hmore => exact chunkAt_length_full hc hmore
    · next hlast =>
      have hn : i + 1 = n := by omega
      rw [chunkAt_length_last hc hn, ← hn, Nat.add_sub_cancel]

end Sys2Proof.Machine

/-! ### One pixel of the framebuffer (spec/41_framebuffer.md R180 to R183) -/

namespace Sys2Proof.Machine

theorem encodePixel_length (m : ColorMode) (r g b : Byte) : (encodePixel m r g b).length = m.bpp := by
  cases m <;> rfl

/-- Settles O45: the encoder's length, and its value in each mode. -/
theorem encoderGivesOnePixel : Obligations.EncoderGivesOnePixel :=
  fun m r g b => ⟨encodePixel_length m r g b, rfl, rfl, rfl, rfl⟩

theorem inPanel_iff {c : Cfg} {x y : Word} :
    inPanel c x y = true ↔ 0 ≤ x.toInt ∧ x.toInt < c.w.toNat ∧ 0 ≤ y.toInt ∧ y.toInt < c.h.toNat := by
  simp only [inPanel, Bool.and_eq_true, decide_eq_true_eq, and_assoc]

/-- The framebuffer offset at which the panel's pixel at the signed coordinates begins (R180). -/
def pixelStart (c : Cfg) (x y : Word) : Nat := pixelOffset c x.toInt.toNat y.toInt.toNat c.mode.bpp

theorem pixelWrite_inPanel {c : Cfg} {x y : Word} (h : inPanel c x y = true) (r g b : Byte) :
    pixelWrite c x y r g b = some (pixelStart c x y, encodePixel c.mode r g b) :=
  if_pos h

theorem pixelWrite_clipped {c : Cfg} {x y : Word} (h : ¬ inPanel c x y = true) (r g b : Byte) :
    pixelWrite c x y r g b = none :=
  if_neg h

/-- A pixel write that is not clipped is the encoded colour, at a pixel of the panel. -/
theorem pixelWrite_some {c : Cfg} {x y : Word} {r g b : Byte} {w : Nat × Bytes} (h : pixelWrite c x y r g b = some w) :
    inPanel c x y = true ∧ w = (pixelStart c x y, encodePixel c.mode r g b) := by
  by_cases hin : inPanel c x y = true
  · exact ⟨hin, (Option.some.inj ((pixelWrite_inPanel hin r g b).symm.trans h)).symm⟩
  · cases (pixelWrite_clipped hin r g b).symm.trans h

/-- A pixel of the panel lies within the framebuffer: there are `W * H` pixels, counted row by row. -/
theorem pixelStart_add_bpp_le {c : Cfg} {x y : Word} (h : inPanel c x y = true) :
    pixelStart c x y + c.mode.bpp ≤ c.fblen := by
  obtain ⟨hx0, hxw, hy0, hyh⟩ := inPanel_iff.1 h
  have hcell : y.toInt.toNat * c.w.toNat + x.toInt.toNat + 1 ≤ c.w.toNat * c.h.toNat := by
    have hrow : (y.toInt.toNat + 1) * c.w.toNat ≤ c.h.toNat * c.w.toNat := Nat.mul_le_mul_right _ (by omega)
    rw [Nat.succ_mul] at hrow
    rw [Nat.mul_comm c.w.toNat]
    omega
  calc pixelStart c x y + c.mode.bpp = (y.toInt.toNat * c.w.toNat + x.toInt.toNat + 1) * c.mode.bpp :=
        (Nat.succ_mul _ _).symm
    _ ≤ c.fblen := Nat.mul_le_mul_right _ hcell

/-- A pixel write that is not clipped is within the framebuffer. -/
theorem pixelWrite_le_fblen {c : Cfg} {x y : Word} {r g b : Byte} {w : Nat × Bytes}
    (h : pixelWrite c x y r g b = some w) : w.1 + w.2.length ≤ c.fblen := by
  obtain ⟨hin, rfl⟩ := pixelWrite_some h
  rw [encodePixel_length]
  exact pixelStart_add_bpp_le hin

/-- In rows of `w` cells, a cell's number gives back its column and its row. -/
theorem column_row_of_cell {w x y x' y' : Nat} (hx : x < w) (hx' : x' < w) (h : y' * w + x' = y * w + x) :
    x' = x ∧ y' = y := by
  have divMod {x y : Nat} (hx : x < w) : (y * w + x) / w = y ∧ (y * w + x) % w = x :=
    (Nat.div_mod_unique (Nat.zero_lt_of_lt hx)).2 ⟨by rw [Nat.add_comm, Nat.mul_comm], hx⟩
  obtain ⟨hrow, hcol⟩ := divMod (y := y) hx
  obtain ⟨hrow', hcol'⟩ := divMod (y := y') hx'
  rw [h] at hrow' hcol'
  exact ⟨hcol'.symm.trans hcol, hrow'.symm.trans hrow⟩

/-- Two pixels of the panel share no byte. -/
theorem pixelStart_disjoint {c : Cfg} {x y x' y' : Word} (h : inPanel c x y = true) (h' : inPanel c x' y' = true)
    (hne : x' ≠ x ∨ y' ≠ y) :
    pixelStart c x y + c.mode.bpp ≤ pixelStart c x' y' ∨ pixelStart c x' y' + c.mode.bpp ≤ pixelStart c x y := by
  obtain ⟨hx0, hxw, hy0, -⟩ := inPanel_iff.1 h
  obtain ⟨hx0', hxw', hy0', -⟩ := inPanel_iff.1 h'
  have before {cell cell' : Nat} (hlt : cell < cell') : cell * c.mode.bpp + c.mode.bpp ≤ cell' * c.mode.bpp := by
    rw [← Nat.succ_mul]
    exact Nat.mul_le_mul_right _ hlt
  rcases Nat.lt_trichotomy (y.toInt.toNat * c.w.toNat + x.toInt.toNat) (y'.toInt.toNat * c.w.toNat + x'.toInt.toNat)
    with hlt | heq | hlt
  · exact .inl (before hlt)
  · obtain ⟨hx, hy⟩ := column_row_of_cell (by omega) (by omega) heq.symm
    have hxEq : x' = x := BitVec.eq_of_toInt_eq (by omega)
    have hyEq : y' = y := BitVec.eq_of_toInt_eq (by omega)
    exact absurd hne (by simp [hxEq, hyEq])
  · exact .inr (before hlt)

/-- A read of bytes apart from those just written. -/
theorem Memory.readBytes_writeBytes_apart {m : Memory} (hw : Memory.wf m = true) {off off' n : Nat} {v : Bytes}
    (h : off + n ≤ off' ∨ off' + v.length ≤ off) :
    Memory.readBytes (Memory.writeBytes m off' v) off n = Memory.readBytes m off n := by
  refine List.map_congr_left fun i hi => ?_
  rw [List.mem_range] at hi
  rw [Memory.read_writeBytes hw, if_neg (by omega)]

/-- The contents after a pixel write, which is clipped or sets consecutive bytes. -/
def Memory.afterPixel (m : Memory) : Option (Nat × Bytes) → Memory
  | none => m
  | some w => Memory.writeBytes m w.1 w.2

theorem Memory.wf_afterPixel {m : Memory} (hm : Memory.wf m = true) (w : Option (Nat × Bytes)) :
    Memory.wf (m.afterPixel w) = true := by
  cases w with
  | none => exact hm
  | some w => exact Memory.wf_writeBytes hm

/-- A pixel write leaves the bytes it does not cover. -/
theorem Memory.read_afterPixel_outside {m : Memory} (hm : Memory.wf m = true) {w : Option (Nat × Bytes)} {a : Nat}
    (ha : ∀ off v, w = some (off, v) → ¬ (off ≤ a ∧ a < off + v.length)) :
    Memory.read (m.afterPixel w) a = Memory.read m a := by
  cases w with
  | none => rfl
  | some w => exact (Memory.read_writeBytes hm a).trans (if_neg (ha w.1 w.2 rfl))

/-- A pixel of the panel reads back as its colour. -/
theorem Memory.readBytes_afterPixel {c : Cfg} {m : Memory} (hm : Memory.wf m = true) {x y : Word}
    (h : inPanel c x y = true) (r g b : Byte) :
    Memory.readBytes (m.afterPixel (pixelWrite c x y r g b)) (pixelStart c x y) c.mode.bpp =
      encodePixel c.mode r g b := by
  rw [pixelWrite_inPanel h, ← encodePixel_length c.mode r g b]
  exact Memory.readBytes_writeBytes hm _ _

/-- A write to other coordinates leaves the bytes of a pixel of the panel. -/
theorem Memory.readBytes_afterPixel_other {c : Cfg} {m : Memory} (hm : Memory.wf m = true) {x y x' y' : Word}
    (h : inPanel c x y = true) (hne : x' ≠ x ∨ y' ≠ y) (r g b : Byte) :
    Memory.readBytes (m.afterPixel (pixelWrite c x' y' r g b)) (pixelStart c x y) c.mode.bpp =
      Memory.readBytes m (pixelStart c x y) c.mode.bpp := by
  by_cases h' : inPanel c x' y' = true
  · rw [pixelWrite_inPanel h']
    exact Memory.readBytes_writeBytes_apart hm (encodePixel_length c.mode r g b ▸ pixelStart_disjoint h h' hne)
  · rw [pixelWrite_clipped h']
    rfl

/-! ### The framebuffer requests in READY (R180, R184, R186, R188) -/

/-- A request that performs no action is accepted in READY, and answered. -/
theorem State.request_answer_ready {s : State} {op : Byte} (hb : s.busy = false) (hp : s.phase = .ready)
    (hop : op ≠ opConstruct) (hw : forgetsWindow (some op) = false) (v0 v1 : Word) :
    s.request op (.next (s.answer op v0 v1)) = .next
      { s with res := ⟨.ok, .none, v0, v1⟩, seq := { op := some op, list := [], k := 0, window := none } } := by
  rw [State.request_ready hb hp hop, State.answer_ready hb hp hw]

/-- Settles O46: the answer's values are the panel's sizes. -/
theorem getSizeReportsThePanel : Obligations.GetSizeReportsThePanel :=
  fun _ hb hp => ⟨by decide, State.request_answer_ready hb hp (by decide) (by decide) _ _⟩

/-- The two words of a 64-bit size hold it exactly. -/
theorem sizeLow_sizeHigh {n : Nat} (h : n < 2 ^ 64) : (sizeLow n).toNat + 2 ^ 32 * (sizeHigh n).toNat = n := by
  have hhigh : n / 2 ^ 32 < 2 ^ 32 := Nat.div_lt_of_lt_mul h
  rw [sizeLow, sizeHigh, BitVec.toNat_ofNat, BitVec.toNat_ofNat, Nat.shiftRight_eq_div_pow, Nat.mod_eq_of_lt hhigh,
    Nat.mod_add_div]

theorem bpp_le (m : ColorMode) : m.bpp ≤ 3 := by cases m <;> decide

/-- A framebuffer's size fits in 64 bits: the panel's sizes have 16 bits each. -/
theorem Cfg.fblenOf_lt (c : Cfg) (m : ColorMode) : c.fblenOf m < 2 ^ 64 := by
  calc c.w.toNat * c.h.toNat * m.bpp ≤ 2 ^ 16 * 2 ^ 16 * 3 :=
        Nat.mul_le_mul (Nat.mul_le_mul c.w.isLt.le c.h.isLt.le) (bpp_le m)
    _ < 2 ^ 64 := by decide

/-- Settles O47: the answer's values are the two words of the size, which fits in them. -/
theorem fbSizeReportsTheExactSize : Obligations.FbSizeReportsTheExactSize :=
  fun s m hb hp => ⟨rfl, _, _, sizeLow_sizeHigh (Cfg.fblenOf_lt s.c m),
    State.request_answer_ready hb hp (by decide) (by decide) _ _⟩

/-- A pixel write in READY sets the framebuffer's bytes, `RES` and the sequencer, and nothing else. -/
theorem State.writePixel_ready {s : State} {m : Memory} (hb : s.busy = false) (hp : s.phase = .ready)
    (hf : s.fb = some m) (x y : Word) (r g b : Byte) :
    ∃ q : Seq, q.op = some opWritePixel ∧ s.writePixel x y r g b = .next { s with
      fb := some (m.afterPixel (pixelWrite s.c x y r g b)), res := ⟨.ok, .none, 0, 0⟩, seq := q } := by
  cases hw : pixelWrite s.c x y r g b with
  | none =>
    have hsame : some (m.afterPixel none) = s.fb := hf.symm
    refine ⟨{ op := some opWritePixel, list := [], k := 0, window := none }, rfl, ?_⟩
    rw [State.writePixel_clipped hw, State.request_answer_ready hb hp (by decide) (by decide), hsame]
  | some w =>
    have hnext := State.performFbw_inside (s := s.load opWritePixel none [.fbw w.1 w.2]) hf (pixelWrite_le_fblen hw)
    obtain ⟨m', hf', -, ht⟩ := RequestNext.performFbw_ready hb hp hnext
    cases hf.symm.trans hf'
    refine ⟨{ op := some opWritePixel, list := [.fbw w.1 w.2], k := 1, window := none }, rfl, ?_⟩
    rw [State.writePixel_inside hw, State.request_ready hb hp (by decide), hnext, ht, Memory.afterPixel]

/-- Settles O43: inside the panel the write is the encoded colour at the pixel, outside it there is none. -/
theorem writePixelWritesOrClips : Obligations.WritePixelWritesOrClips := by
  intro s m x y r g b hb hp hf hm
  obtain ⟨q, hq, hnext⟩ := State.writePixel_ready hb hp hf x y r g b
  refine ⟨rfl, _, _, hnext, rfl, fun hin => ?_, fun hout => ?_, rfl, hp, hb, rfl, rfl, rfl, rfl, rfl, hq⟩
  · have hin := inPanel_iff.2 hin
    refine ⟨Memory.readBytes_afterPixel hm hin r g b, fun a ha => Memory.read_afterPixel_outside hm ?_⟩
    intro off v hw
    obtain ⟨-, hov⟩ := pixelWrite_some hw
    cases hov
    rwa [encodePixel_length]
  · rw [pixelWrite_clipped (mt inPanel_iff.1 hout)]
    rfl

/-- A pixel write that answers a next state was made in READY. -/
theorem State.writePixel_next {s t : State} {m : Memory} {x y : Word} {r g b : Byte} (hf : s.fb = some m)
    (h : s.writePixel x y r g b = .next t) :
    t.fb = some (m.afterPixel (pixelWrite s.c x y r g b)) ∧ t.c = s.c := by
  obtain ⟨hb, ha, -⟩ := State.request_next (op := opWritePixel) h
  obtain ⟨q, -, hnext⟩ := State.writePixel_ready hb ((admitted_other (by decide) _).1 ha) hf x y r g b
  cases hnext.symm.trans h
  exact ⟨rfl, rfl⟩

/-- Settles O44: the second write leaves the first one's pixel, which reads back as its colour. -/
theorem pixelRoundTrip : Obligations.PixelRoundTrip := by
  intro s t u m x y x' y' r g b r' g' b' hf hm hin ht hu hne
  have hin := inPanel_iff.2 hin
  obtain ⟨hfbT, hc⟩ := State.writePixel_next hf ht
  obtain ⟨hfbU, -⟩ := State.writePixel_next hfbT hu
  rw [hc] at hfbU
  have hread := (Memory.readBytes_afterPixel_other (Memory.wf_afterPixel hm (pixelWrite s.c x y r g b)) hin hne
    r' g' b').trans (Memory.readBytes_afterPixel hm hin r g b)
  refine ⟨_, hfbU, hread, fun hmode => ?_⟩
  rcases hmode with hmode | hmode <;> rw [hmode] at hread <;> exact hread

/-! ### DRAW_ITER (R184, R189) -/

/-- The contents after the writes of a sequence of pixels, in sequence order. -/
def Memory.afterPixels (c : Cfg) (m : Memory) (pixels : List Pixel) : Memory :=
  pixels.foldl (fun m p => m.afterPixel (pixelWrite c p.x p.y p.r p.g p.b)) m

theorem Memory.wf_afterPixels (c : Cfg) {m : Memory} (hm : Memory.wf m = true) (pixels : List Pixel) :
    Memory.wf (m.afterPixels c pixels) = true := by
  induction pixels generalizing m with
  | nil => exact hm
  | cons p rest ih => exact ih (Memory.wf_afterPixel hm _)

/-- A sequence of pixel writes leaves the bytes that none of them covers. -/
theorem Memory.read_afterPixels_outside {c : Cfg} {m : Memory} (hm : Memory.wf m = true) {pixels : List Pixel} {a : Nat}
    (ha : ∀ p ∈ pixels, ∀ off v, pixelWrite c p.x p.y p.r p.g p.b = some (off, v) →
      ¬ (off ≤ a ∧ a < off + v.length)) :
    Memory.read (m.afterPixels c pixels) a = Memory.read m a := by
  induction pixels generalizing m with
  | nil => rfl
  | cons p rest ih =>
    obtain ⟨hp, hrest⟩ := List.forall_mem_cons.1 ha
    exact (ih (Memory.wf_afterPixel hm _) hrest).trans (Memory.read_afterPixel_outside hm hp)

/-- Of a sequence of pixel writes, a byte holds what the last one that covers it wrote. -/
theorem Memory.read_afterPixels_last {c : Cfg} {m : Memory} (hm : Memory.wf m = true) (pre : List Pixel) {p : Pixel}
    {post : List Pixel} {a off : Nat} {v : Bytes} (hw : pixelWrite c p.x p.y p.r p.g p.b = some (off, v))
    (hlo : off ≤ a) (hhi : a < off + v.length)
    (ha : ∀ q ∈ post, ∀ off v, pixelWrite c q.x q.y q.r q.g q.b = some (off, v) → ¬ (off ≤ a ∧ a < off + v.length)) :
    Memory.read (m.afterPixels c (pre ++ p :: post)) a = v.getD (a - off) 0 := by
  have hpre := Memory.wf_afterPixels c hm pre
  have hsplit : m.afterPixels c (pre ++ p :: post) =
      (Memory.writeBytes (m.afterPixels c pre) off v).afterPixels c post := by
    simp only [Memory.afterPixels, List.foldl_append, List.foldl_cons, hw]
    rfl
  rw [hsplit, Memory.read_afterPixels_outside (Memory.wf_writeBytes hpre) ha, Memory.read_writeBytes hpre,
    if_pos ⟨hlo, hhi⟩]

/-- DRAW_ITER in READY never fails: it writes its pixels, and leaves what the last one leaves in `RES`, the latches and
the sequencer. -/
theorem execDrawIter_ready {s : State} {m : Memory} (hb : s.busy = false) (hp : s.phase = .ready) (hf : s.fb = some m)
    (pixels : List Pixel) :
    ∃ res q req, (res = ⟨.ok, .none, 0, 0⟩ ∨ pixels = [] ∧ res = s.res) ∧ execDrawIter pixels s = .next { s with
      fb := some (m.afterPixels s.c pixels), res := res, seq := q, req := req } := by
  induction pixels generalizing s m with
  | nil =>
    refine ⟨s.res, s.seq, s.req, .inr ⟨rfl, rfl⟩, ?_⟩
    rw [Memory.afterPixels, List.foldl_nil, ← hf]
    rfl
  | cons p rest ih =>
    obtain ⟨q, -, hfirst⟩ := State.writePixel_ready (s := s.latch (reqWritePixel p.x p.y p.r p.g p.b)) hb hp hf
      p.x p.y p.r p.g p.b
    rw [execDrawIter, hfirst]
    obtain ⟨res, q, req, hres, hrest⟩ := ih (s := { s.latch (reqWritePixel p.x p.y p.r p.g p.b) with
      fb := some (m.afterPixel (pixelWrite s.c p.x p.y p.r p.g p.b)), res := ⟨.ok, .none, 0, 0⟩, seq := q }) hb hp rfl
    exact ⟨res, q, req, .inl (hres.elim id And.right), hrest⟩

/-- Settles O49: the sequence's writes, one after the other, each leaving what it does not cover. -/
theorem drawIterLastWriteWins : Obligations.DrawIterLastWriteWins := by
  intro s m pixels hb hp hf hm
  obtain ⟨res, q, req, hres, hnext⟩ := execDrawIter_ready hb hp hf pixels
  refine ⟨_, _, hnext, rfl, hb, hp, rfl, rfl, rfl, rfl, fun hne => hres.resolve_right fun h => hne h.1,
    fun a ha => Memory.read_afterPixels_outside hm ha, ?_⟩
  rintro pre p post off v rfl hw a hlo hhi hpost
  exact Memory.read_afterPixels_last hm pre hw hlo hhi hpost

end Sys2Proof.Machine

/-! ### A failed construction (spec/42_lifecycle.md R215), and RESET, INIT and the control requests accepted (R211, R220
to R238) -/

namespace Sys2Proof.Machine

/-- Settles O16: the construction has ended in FAILED, where the invariant says that there is no framebuffer and
`PHASE` admits CONSTRUCT only. -/
theorem failedConstructionLeavesNoDriver : Obligations.FailedConstructionLeavesNoDriver := by
  intro s t h hs hb hop hidle hres
  have hfailed : t.phase = .failed := by
    rcases h.construction_step ((h.phase_of_op hb).1 hop) hs with ⟨hbusy, -⟩ | ⟨-, -, hok, -⟩ | ⟨-, hp, -⟩
    · cases hbusy.symm.trans hidle
    · exact absurd hok hres
    · exact hp
  obtain ⟨-, hfb, -⟩ := stepKeepsInvariant s t h hs
  refine ⟨hfailed, hfb.2 (.inr hfailed), fun i q hq hi => ?_, ?_⟩
  · rw [(phaseAdmission t i hidle (.inl ⟨q, hq⟩)).2 hi (hfailed ▸ nofun), hfailed]
  · obtain ⟨m, hnext, -⟩ := constructIsAccepted t hidle (.inr hfailed)
    exact ⟨_, hnext, rfl⟩

/-- A request that sends actions is accepted in READY: only `BUSY` and the sequencer change. -/
theorem State.request_load_ready {s : State} {op : Byte} (hb : s.busy = false) (hp : s.phase = .ready)
    (hop : op ≠ opConstruct) (w : Option Rect) (list : List Action) : s.request op (.next (s.load op w list)) = .next
      { s with busy := true, seq := { op := some op, list := list, k := 0, window := w } } :=
  State.request_ready hb hp hop _

/-- Settles O38: the requests load the reset sequence and `INIT_SEQ`. -/
theorem resetAndInitAreAccepted : Obligations.ResetAndInitAreAccepted := by
  intro s hb hp first entries last
  refine ⟨State.request_load_ready hb hp (by decide) none _, ?_⟩
  rw [← initSeq_eq]
  exact State.request_load_ready hb hp (by decide) none _

/-- A settle delay of 0 leaves the command alone in the list (R232). -/
theorem sendCommandData_optDelay (c : Cfg) (cmd : Byte) (data : Bytes) (delay : Nat) :
    sendCommandData c cmd data ++ optDelay delay =
      if delay = 0 then [.tx (txnCommand c cmd data)] else [.tx (txnCommand c cmd data), .dly delay] := by
  cases delay <;> rfl

/-- A control request accepted in READY: its command and, unless it is 0, its settle delay. -/
theorem State.control_ready {s : State} {op : Byte} (hb : s.busy = false) (hp : s.phase = .ready)
    (hop : op ≠ opConstruct) (cmd : Byte) (data : Bytes) (delay : Nat) :
    s.control op (sendCommandData s.c cmd data) delay = .next
      { s with busy := true, seq := { op := some op, k := 0, window := none, list :=
        if delay = 0 then [.tx (txnCommand s.c cmd data)] else [.tx (txnCommand s.c cmd data), .dly delay] } } := by
  rw [State.control, sendCommandData_optDelay, State.request_load_ready hb hp hop]

/-- Settles O39: each of the six is `State.control` of its command and its delay. -/
theorem controlRequestsAreAccepted : Obligations.ControlRequestsAreAccepted := by
  intro s hb hp accepted
  have hcontrol {op : Byte} (hop : op ≠ opConstruct) := State.control_ready hb hp hop
  exact ⟨hcontrol (by decide) _ [] _, hcontrol (by decide) _ [] _, hcontrol (by decide) _ [] _,
    hcontrol (by decide) _ [] _, fun v => hcontrol (by decide) _ [v] _, fun v => hcontrol (by decide) _ [v] _⟩

end Sys2Proof.Machine

/-! ### The flush requests (spec/43_flush.md R260 to R274) -/

namespace Sys2Proof.Machine

theorem Memory.getElem?_readBytes (m : Memory) (off : Nat) {n i : Nat} (h : i < n) :
    (Memory.readBytes m off n)[i]? = some (Memory.read m (off + i)) := by
  simp [Memory.readBytes, h]

/-- A flush accepted in READY loads the commands of its window and then its burst. -/
theorem State.request_flush_ready {s : State} {op : Byte} (hb : s.busy = false) (hp : s.phase = .ready)
    (hop : op ≠ opConstruct) (r : Rect) (p : Bytes) :
    s.request op (.next (s.load op (some r) (flushActions s.c r p))) = .next { s with
      busy := true
      seq := { op := some op, k := 0, window := some r, list :=
        [.tx (txnCommand s.c s.c.cmdCaset (windowPayload r.xs r.xe)),
          .tx (txnCommand s.c s.c.cmdRaset (windowPayload r.ys r.ye))] ++ sendPixels s.c p } } :=
  State.request_load_ready hb hp hop (some r) _

/-- The window commands of the whole panel start from column and row 0. -/
theorem windowPayload_zero (last : Half) :
    windowPayload 0 last = [0, 0, last.extractLsb' 8 8, last.extractLsb' 0 8] := by
  simp [windowPayload, be16]

/-- Settles O51: the payload is `MemRead(0, FBLEN)`. -/
theorem flushFullSendsTheWholeFramebuffer : Obligations.FlushFullSendsTheWholeFramebuffer := by
  intro s m hb hp hf window
  refine ⟨Memory.readBytes m 0 s.c.fblen, Memory.length_readBytes m 0 _, fun a ha => ?_, ?_⟩
  · rw [Memory.length_readBytes] at ha
    rw [Memory.getElem?_readBytes m 0 ha, Nat.zero_add]
  · have hloads := execFlushFull_present hf
    rw [State.request_flush_ready hb hp (by decide), fullWindow, windowPayload_zero, windowPayload_zero] at hloads
    exact hloads

/-- A flush sends its two window commands and one transaction for each chunk (R152). -/
theorem flushActions_length (c : Cfg) (r : Rect) (p : Bytes) :
    (flushActions c r p).length = 2 + ceilDiv p.length c.maxChunk := by
  rw [flushActions, List.length_append, sendPixels_length]
  rfl

theorem isTx_of_mem_flushActions {c : Cfg} {r : Rect} {p : Bytes} {a : Action} (ha : a ∈ flushActions c r p) :
    ∃ x, a = .tx x := by
  rcases List.mem_append.1 ha with hwindow | hburst
  · simp only [windowActions, sendCommandData, List.singleton_append, List.mem_pair] at hwindow
    exact hwindow.elim (⟨_, ·⟩) (⟨_, ·⟩)
  · obtain ⟨i, -, rfl⟩ := List.mem_map.1 hburst
    exact ⟨_, rfl⟩

/-- A full flush that answers a next state had a framebuffer to send: without one it faults. -/
theorem execFlushFull_fb {s t : State} (h : execFlushFull s = .next t) : ∃ m, s.fb = some m := by
  cases hf : s.fb with
  | none =>
    rw [execFlushFull_absent hf] at h
    obtain ⟨-, -, hfault⟩ := State.request_next h
    cases hfault
  | some m => exact ⟨m, rfl⟩

/-- Settles O52: the list is the actions of a flush of `FBLEN` bytes. -/
theorem flushFullTransactionCount : Obligations.FlushFullTransactionCount := by
  intro s t h
  obtain ⟨m, hf⟩ := execFlushFull_fb h
  rw [execFlushFull_next hf h]
  refine ⟨?_, fun a => isTx_of_mem_flushActions⟩
  rw [flushActions_length, Memory.length_readBytes, ceilDiv]

/-! ### What a partial flush checks (R266 to R271) -/

/-- The checks of a partial flush: V1 to V4, and each row's range within the framebuffer (R266 to R269, R271). -/
def FlushAccepted (c : Cfg) (r : Rect) (mode : ColorMode) : Prop :=
  r.xs.toNat ≤ r.xe.toNat ∧ r.ys.toNat ≤ r.ye.toNat ∧ r.xe.toNat ≤ c.maxColIndex.toNat ∧ r.ye.toNat + 1 ≤ c.h.toNat ∧
    ∀ y, r.ys.toNat ≤ y → y ≤ r.ye.toNat → rowOffset c r mode y + rowLength r mode ≤ c.fblen

/-- The checks V1 to V4, one by one; `H - 1` does not wrap (R9). -/
theorem windowValid_iff {c : Cfg} (hw : c.wf = true) (r : Rect) :
    windowValid c r = true ↔ r.xs.toNat ≤ r.xe.toNat ∧ r.ys.toNat ≤ r.ye.toNat ∧
      r.xe.toNat ≤ c.maxColIndex.toNat ∧ r.ye.toNat + 1 ≤ c.h.toNat := by
  obtain ⟨-, hh, -⟩ := (wf_iff c).1 hw
  simp only [windowValid, Bool.and_eq_true, decide_eq_true_eq, and_assoc, Nat.le_sub_iff_add_le hh]

/-- The payload of a partial flush: the rows of its window, top to bottom (R271). -/
def windowBytes (c : Cfg) (m : Memory) (r : Rect) (mode : ColorMode) : Bytes :=
  (windowRows r).flatMap fun y => Memory.readBytes m (rowOffset c r mode y) (rowLength r mode)

/-- A partial flush whose checks pass sends its window and the window's bytes. -/
theorem partialFlush_of_accepted {c : Cfg} (hw : c.wf = true) (m : Memory) {r : Rect} {mode : ColorMode}
    (h : FlushAccepted c r mode) : partialFlush c m r mode = some (flushActions c r (windowBytes c m r mode)) := by
  obtain ⟨hx, hy, hcol, hrow, hfit⟩ := h
  rw [partialFlush, if_pos ((windowValid_iff hw r).2 ⟨hx, hy, hcol, hrow⟩)]
  cases hg : gatherRows c m r mode (windowRows r) with
  | none =>
    obtain ⟨y, hmem, hout⟩ := gatherRows_none.1 hg
    obtain ⟨hfirst, hlast⟩ := (mem_windowRows hy).1 hmem
    exact absurd (hfit y hfirst hlast) hout
  | some p => rw [gatherRows_some hg, windowBytes]

/-- A partial flush of which a check fails expands to the error: V1 to V4 fail, or a row leaves the framebuffer. -/
theorem partialFlush_of_not_accepted {c : Cfg} (hw : c.wf = true) (m : Memory) {r : Rect} {mode : ColorMode}
    (h : ¬ FlushAccepted c r mode) : partialFlush c m r mode = none := by
  by_cases hv : windowValid c r = true
  · obtain ⟨hx, hy, hcol, hrow⟩ := (windowValid_iff hw r).1 hv
    have hout : ∃ y ∈ windowRows r, ¬ rowOffset c r mode y + rowLength r mode ≤ c.fblen := by
      by_contra hfit
      refine h ⟨hx, hy, hcol, hrow, fun y hfirst hlast => ?_⟩
      by_contra hout
      exact hfit ⟨y, (mem_windowRows hy).2 ⟨hfirst, hlast⟩, hout⟩
    rw [partialFlush, if_pos hv, gatherRows_none.2 hout]
  · rw [partialFlush, if_neg hv]

/-! ### What it sends (R271, R272) -/

/-- Of equally long blocks laid end to end, byte `i` of block `k`. -/
theorem getElem?_flatMap_of_length {α : Type} {f : α → Bytes} {len : Nat} (hf : ∀ a, (f a).length = len) {l : List α}
    {k i : Nat} (hk : k < l.length) (hi : i < len) : (l.flatMap f)[k * len + i]? = (f l[k])[i]? := by
  have hhead := congrArg List.head? (take_drop_flatMap hf (n := 1) hi hk)
  simpa only [List.head?_take, List.head?_drop, Nat.one_ne_zero, if_false] using hhead

theorem windowRows_length (r : Rect) : (windowRows r).length = r.ye.toNat + 1 - r.ys.toNat := by
  simp [windowRows]

theorem windowBytes_length (c : Cfg) (m : Memory) (r : Rect) (mode : ColorMode) :
    (windowBytes c m r mode).length = (r.ye.toNat + 1 - r.ys.toNat) * rowLength r mode := by
  simp [windowBytes, List.length_flatMap, windowRows_length]

/-- Byte `j` of row `k` of the payload is that of the framebuffer's row `ys + k`. -/
theorem windowBytes_getElem? (c : Cfg) (m : Memory) (r : Rect) (mode : ColorMode) {k j : Nat}
    (hk : k < r.ye.toNat + 1 - r.ys.toNat) (hj : j < rowLength r mode) :
    (windowBytes c m r mode)[k * rowLength r mode + j]? =
      some (Memory.read m (rowOffset c r mode (r.ys.toNat + k) + j)) := by
  have hk : k < (windowRows r).length := by rwa [windowRows_length]
  have hy : (windowRows r)[k] = r.ys.toNat + k := by simp [windowRows]
  rw [windowBytes, getElem?_flatMap_of_length (fun y => Memory.length_readBytes m _ _) hk hj, hy,
    Memory.getElem?_readBytes m _ hj]

/-- Settles O53: the checks are those on which the request expands to its list or to the error. -/
theorem flushPartialSendsTheWindow : Obligations.FlushPartialSendsTheWindow := by
  intro s m xs xe ys ye mode hb hp hf window off rowLen ok
  constructor
  · intro (hno : ¬ FlushAccepted s.c ⟨xs, ys, xe, ye⟩ mode)
    have hrejects := execFlushPartial_rejects hf (partialFlush_of_not_accepted s.cfg.ok m hno)
    rw [State.request_ready hb hp (by decide), State.reject_ready hb hp] at hrejects
    exact hrejects
  · intro (hok : FlushAccepted s.c ⟨xs, ys, xe, ye⟩ mode)
    have hloads := execFlushPartial_loads hf (partialFlush_of_accepted s.cfg.ok m hok)
    rw [State.request_flush_ready hb hp (by decide)] at hloads
    exact ⟨windowBytes s.c m ⟨xs, ys, xe, ye⟩ mode, windowBytes_length _ _ _ _,
      fun k j hk hj => windowBytes_getElem? _ _ _ _ hk hj, hloads⟩

/-! ### What it rejects with `mode = MODE` (R274) -/

theorem bpp_pos (m : ColorMode) : 0 < m.bpp := by cases m <;> decide

/-- With the configured mode, a row's range ends within the framebuffer when its last pixel is one of the panel's
`W * H`. -/
theorem row_le_fblen_iff {c : Cfg} {r : Rect} (hx : r.xs.toNat ≤ r.xe.toNat) (y : Nat) :
    rowOffset c r c.mode y + rowLength r c.mode ≤ c.fblen ↔
      y * c.w.toNat + r.xe.toNat + 1 ≤ c.w.toNat * c.h.toNat := by
  have hend : y * c.w.toNat + r.xs.toNat + (r.xe.toNat + 1 - r.xs.toNat) = y * c.w.toNat + r.xe.toNat + 1 := by omega
  rw [rowOffset, pixelOffset, rowLength, ← Nat.add_mul, hend]
  exact Nat.mul_le_mul_right_iff (bpp_pos c.mode)

/-- With the configured mode, the last row's range decides for all rows (R274). -/
theorem flushAccepted_mode_iff (c : Cfg) (r : Rect) :
    FlushAccepted c r c.mode ↔ r.xs.toNat ≤ r.xe.toNat ∧ r.ys.toNat ≤ r.ye.toNat ∧
      r.xe.toNat ≤ c.maxColIndex.toNat ∧ r.ye.toNat + 1 ≤ c.h.toNat ∧
      r.ye.toNat * c.w.toNat + r.xe.toNat + 1 ≤ c.w.toNat * c.h.toNat := by
  refine and_congr_right fun hx => and_congr_right fun hy => and_congr_right fun _ => and_congr_right fun _ => ?_
  simp only [row_le_fblen_iff hx]
  refine ⟨fun hrows => hrows _ hy (Nat.le_refl _), fun hlast y _ hle => ?_⟩
  have := Nat.mul_le_mul_right c.w.toNat hle
  omega

/-- A partial flush that answers a next state was accepted in READY, with a framebuffer. -/
theorem execFlushPartial_ready {s t : State} {xs xe ys ye : Half} {mode : ColorMode}
    (h : execFlushPartial xs xe ys ye mode s = .next t) : s.busy = false ∧ s.phase = .ready ∧ ∃ m, s.fb = some m := by
  obtain ⟨hb, ha, hnext⟩ := State.request_next h
  refine ⟨hb, (admitted_other (by decide) _).1 ha, ?_⟩
  cases hf : s.fb with
  | none => rw [hf] at hnext; cases hnext
  | some m => exact ⟨m, rfl⟩

/-- Settles O54: the request is rejected or loads its list, and the last row decides which. -/
theorem flushPartialRejectionSet : Obligations.FlushPartialRejectionSet := by
  intro s t xs xe ys ye h
  obtain ⟨hb, hp, m, hf⟩ := execFlushPartial_ready h
  obtain ⟨hrejects, hloads⟩ := flushPartialSendsTheWindow s m xs xe ys ye s.c.mode hb hp hf
  have haccepted := flushAccepted_mode_iff s.c ⟨xs, ys, xe, ye⟩
  simp only [← Nat.not_le, ← not_and_or]
  rw [← haccepted]
  by_cases hok : FlushAccepted s.c ⟨xs, ys, xe, ye⟩ s.c.mode
  · obtain ⟨p, -, -, hnext⟩ := hloads hok
    cases h.symm.trans hnext
    exact iff_of_false nofun (not_not_intro hok)
  · cases h.symm.trans (hrejects hok)
    exact iff_of_true ⟨hb, rfl⟩ hok

end Sys2Proof.Machine

/-! ### No step faults, and an idle block waits (spec/20_memory.md R71, R72, spec/60_exceptions.md R295, R297, R310) -/

namespace Sys2Proof.Machine

/-- Settles O25: there is neither an action nor a request to fetch. -/
theorem idleBlockWaits : Obligations.IdleBlockWaits := fun _ => step_waits

/-- In READY there is a framebuffer (R42). -/
theorem State.Inv.fb_of_ready {s : State} (h : s.Inv) (hp : s.phase = .ready) : ∃ m, s.fb = some m := by
  obtain ⟨-, hpres, -⟩ := h
  exact Option.ne_none_iff_exists'.1 (hpres.fb_ne_none (by rw [hp]; decide))

/-- The outcome is no fault. -/
def NeverFaults (o : Out) : Prop := ∀ f, o ≠ .fault f

namespace NeverFaults

theorem next (t : State) : NeverFaults (.next t) := nofun

theorem refused (r : Refusal) : NeverFaults (.refused r) := nofun

section
variable {s : State} {op : Byte}

/-- Only an accepted request can fault, and a request other than CONSTRUCT is accepted in READY only. -/
theorem request {o : Out} (hop : op ≠ opConstruct) (h : s.phase = .ready → NeverFaults o) :
    NeverFaults (s.request op o) := by
  intro f hf
  obtain ⟨-, ha, ho⟩ := State.request_fault hf
  exact h ((admitted_other hop _).1 ha) f ho

/-- A request that always answers a next state once it is accepted. -/
theorem request_next {t : State} : NeverFaults (s.request op (.next t)) := by
  intro f hf
  obtain ⟨-, -, ho⟩ := State.request_fault hf
  cases ho

variable (hfb : s.phase = .ready → ∃ m, s.fb = some m)
include hfb

/-- A pixel is clipped, or its bytes lie within the framebuffer (R181). -/
theorem writePixel (x y : Word) (r g b : Byte) : NeverFaults (s.writePixel x y r g b) := by
  cases hw : pixelWrite s.c x y r g b with
  | none => rw [State.writePixel_clipped hw]; exact request_next
  | some w =>
    rw [State.writePixel_inside hw]
    refine request (by decide) fun hp => ?_
    obtain ⟨m, hf⟩ := hfb hp
    rw [State.performFbw_inside (s := s.load opWritePixel none [.fbw w.1 w.2]) hf (pixelWrite_le_fblen hw)]
    exact next _

theorem flushFull : NeverFaults (execFlushFull s) := by
  refine request (by decide) fun hp => ?_
  obtain ⟨m, hf⟩ := hfb hp
  rw [hf]
  exact next _

theorem flushPartial (xs xe ys ye : Half) (mode : ColorMode) : NeverFaults (execFlushPartial xs xe ys ye mode s) := by
  refine request (by decide) fun hp => ?_
  obtain ⟨m, hf⟩ := hfb hp
  rw [hf]
  exact next _

/-- No request faults where READY has a framebuffer: only three access it. -/
theorem exec {i : Instr} (hi : (encodeReq i).isSome = true) : NeverFaults (exec i s) := by
  cases i with
  | writePixel x y r g b => exact writePixel hfb x y r g b
  | flushFull => exact flushFull hfb
  | flushPartial xs xe ys ye mode => exact flushPartial hfb xs xe ys ye mode
  | construct | reset | init | getSize | fbSize | sleepIn | sleepOut | displayOn | displayOff | setMadctl
  | setBrightness | setWindow => exact request_next
  | drawIter | fullWindow | slpout | slpin | colmod | teoff | dispon | dispoff | bright | madctl | caset | raset
  | ramwr | ramwrc | mfrEntry => cases hi

/-- With no request in progress, a step waits, refuses the host's words, or runs the request they decode to. -/
theorem step_idle (hb : s.busy = false) : NeverFaults (step s) := by
  cases hh : s.env.host with
  | nil => rw [step_waits hb hh]; exact next s
  | cons q rest =>
    cases hd : decodeReq q with
    | error e => rw [step_badRequest hb hh hd]; exact refused _
    | ok i =>
      rw [stepRunsTheNextRequest s q rest i hb hh hd]
      exact exec (s := s.take q rest) hfb (AnswersRequest.decodeReq q i hd)

end

end NeverFaults

/-- Settles O5: a request in progress goes on, and with none in progress the framebuffer is there for every request that
READY admits. -/
theorem stepNeverFaults : Obligations.StepNeverFaults := by
  intro s f h
  cases hb : s.busy with
  | false => exact NeverFaults.step_idle h.fb_of_ready hb f
  | true =>
    obtain ⟨t, ht⟩ := busyStepAlwaysGoesOn s h hb
    exact ht ▸ NeverFaults.next t f

end Sys2Proof.Machine

/-! ### A CONSTRUCT whose actions all answer `Ok` (spec/70_reset_and_hazards.md R331) -/

namespace Sys2Proof.Machine

/-- The state that accepting a CONSTRUCT in `s` leads to (R50, R210). -/
def State.constructed (s : State) : State :=
  ({ s with
      fb := some s.freshFb
      phase := .constructing
      env := { s.env with draws := s.env.draws + 1 } } : State).load opConstruct none (constructActions s.c)

section
variable {s : State} (hb : s.busy = false) (hp : s.phase = .powerOn ∨ s.phase = .failed)
include hb hp

theorem execConstruct_accepted : execConstruct s = .next s.constructed :=
  State.request_accepted hb ((admitted_construct _).2 hp) _

/-- An accepted CONSTRUCT meets the invariant even if `s` does not: `s` without a framebuffer does, and CONSTRUCT, which
allocates one whatever stood there before, leads to the same state from there. -/
theorem State.constructed_inv : s.constructed.Inv := by
  have hidle : inConstruction s.phase = false := by
    rcases hp with hp | hp <;> rw [hp] <;> rfl
  have hoff : ({ s with fb := none } : State).Inv := .of_idle hb nofun ⟨fun _ => hp, fun _ => rfl⟩ hidle
  exact hoff.of_requestNext hb (.construct (execConstruct_accepted (s := { s with fb := none }) hb hp))

end

/-- A construction asks the Transport `5 + len(MFR_INIT)` times and the reset line twice. -/
theorem constructActions_counts (c : Cfg) :
    txCount (constructActions c) = 5 + c.mfrInit.length ∧ rstCount (constructActions c) = 2 := by
  simp [txCount, rstCount, constructActions, resetSequence, initSeq, sendCommand, sendCommandData, mfrActions_map,
    List.countP_map, Function.comp_def]
  omega

/-- Every action that a request may have leaves an entry in the trace. -/
theorem filterMap_okEvent_length {c : Cfg} {op : Option Byte} {l : List Action} (h : ∀ a ∈ l, allowed c op a) :
    (l.filterMap okEvent).length = l.length := by
  refine List.filterMap_length_eq_length.2 fun a ha => ?_
  cases a with
  | tx | rst | dly => rfl
  | fbw off v => exact (h _ ha).elim

theorem allowed_constructActions (c : Cfg) : ∀ a ∈ constructActions c, allowed c (some opConstruct) a :=
  List.forall_mem_append.2 ⟨allowed_resetSequence c (.inl rfl), allowed_initSeq c _⟩

/-- A construction leaves `11 + len(MFR_INIT)` entries in the trace. -/
theorem constructActions_events_length (c : Cfg) :
    ((constructActions c).filterMap okEvent).length = 11 + c.mfrInit.length :=
  (filterMap_okEvent_length (allowed_constructActions c)).trans (constructActions_length c)

/-- Settles O36: the accepted CONSTRUCT meets the invariant, so its actions run to completion (O33). -/
theorem constructReachesReady : Obligations.ConstructReachesReady := by
  intro s e hb hp he
  obtain ⟨htx, hrst⟩ := constructActions_counts s.c
  have henv : s.constructed.env =
      okThen (txCount (constructActions s.c)) (rstCount (constructActions s.c)) { e with draws := e.draws + 1 } := by
    rw [htx, hrst, State.constructed, State.load_env, he]
    rfl
  obtain ⟨u, hrun, hbusy, hres, htrace, hphase, hfb, -, -, -, hgwin⟩ :=
    requestRunsToCompletion s.constructed _ (State.constructed_inv hb hp) rfl henv
  obtain ⟨-, hread⟩ := Memory.ofBytes_spec (Config.fbInit s.env.draws) s.c.fblen
  have hevents : u.trace = s.trace ++ (constructActions s.c).filterMap okEvent := htrace
  refine ⟨s.constructed, u, execConstruct_accepted hb hp, ?_, hphase, hbusy, hres,
    ⟨s.freshFb, hfb, fun a ha => (hread a).trans (if_pos ha)⟩, hgwin, hevents, ?_⟩
  · rw [← constructActions_length]
    exact hrun
  · rw [hevents, List.length_append, constructActions_events_length, Nat.add_assoc]

end Sys2Proof.Machine

/-! ### What a flush loads (spec/70_reset_and_hazards.md R349) -/

namespace Sys2Proof.Machine

section
variable {s t : State} {m : Memory}

/-- A request that sends actions and is accepted leaves the block busy with them (R36). -/
theorem State.request_load_next {op : Byte} {w : Option Rect} {list : List Action}
    (h : s.request op (.next (s.load op w list)) = .next t) :
    t.busy = true ∧ t.seq = { op := some op, list := list, k := 0, window := w } := by
  obtain ⟨-, -, ht⟩ := State.request_next h
  cases ht
  exact ⟨rfl, rfl⟩

/-- An accepted full flush is in progress, and its sequencer is a function of the configuration and the framebuffer. -/
theorem execFlushFull_seq (hf : s.fb = some m) (h : execFlushFull s = .next t) :
    t.busy = true ∧ t.seq =
      { op := some opFlushFull
        list := flushActions s.c (fullWindow s.c) (Memory.readBytes m 0 s.c.fblen)
        k := 0
        window := some (fullWindow s.c) } :=
  State.request_load_next ((execFlushFull_present hf).symm.trans h)

variable {xs xe ys ye : Half} {mode : ColorMode}

/-- A partial flush that expands to a list is in progress with that list. -/
theorem execFlushPartial_seq {list : List Action} (hf : s.fb = some m)
    (hl : partialFlush s.c m ⟨xs, ys, xe, ye⟩ mode = some list) (h : execFlushPartial xs xe ys ye mode s = .next t) :
    t.busy = true ∧
      t.seq = { op := some opFlushPartial, list := list, k := 0, window := some ⟨xs, ys, xe, ye⟩ } :=
  State.request_load_next ((execFlushPartial_loads hf hl).symm.trans h)

/-- A partial flush that leaves the block busy has expanded to a list: one that is rejected completes at once (R270). -/
theorem partialFlush_of_busy (hf : s.fb = some m) (h : execFlushPartial xs xe ys ye mode s = .next t)
    (hb : t.busy = true) : ∃ list, partialFlush s.c m ⟨xs, ys, xe, ye⟩ mode = some list := by
  refine Option.ne_none_iff_exists'.1 fun hl => ?_
  rw [execFlushPartial_rejects hf hl] at h
  obtain ⟨-, -, ht⟩ := State.request_next h
  cases ht
  cases hb

end

/-- Settles O56: what either flush loads is a function of the configuration and the framebuffer, which are the same. -/
theorem flushIgnoresEarlierWindows : Obligations.FlushIgnoresEarlierWindows := by
  intro s s' t t' i hi hcfg hfb h h' hb
  have hc : s'.c = s.c := congrArg ValidCfg.toCfg hcfg.symm
  rcases hi with rfl | ⟨xs, xe, ys, ye, mode, rfl⟩
  · obtain ⟨m, hf⟩ := execFlushFull_fb h
    obtain ⟨-, hseq⟩ := execFlushFull_seq hf h
    obtain ⟨hb', hseq'⟩ := execFlushFull_seq (hfb ▸ hf) h'
    rw [hc, ← hseq] at hseq'
    exact ⟨hb', hseq'⟩
  · obtain ⟨-, -, m, hf⟩ := execFlushPartial_ready h
    obtain ⟨list, hl⟩ := partialFlush_of_busy hf h hb
    obtain ⟨-, hseq⟩ := execFlushPartial_seq hf hl h
    obtain ⟨hb', hseq'⟩ := execFlushPartial_seq (hfb ▸ hf) (hc ▸ hl) h'
    exact ⟨hb', hseq'.trans hseq.symm⟩

end Sys2Proof.Machine
